-- ==== Sys2Proof/Word.lean ====
section
/-! DEFINITION. The word types of the core. All values are unsigned (00_scope.md R10). -/

namespace Sys2Proof

/-- One register, memory cell, timer or framebuffer byte: 8 bits. -/
abbrev Byte := BitVec 8

/-- One instruction word, program counter, index register or stack entry: 16 bits. -/
abbrev Word := BitVec 16

/-- A register number, the 4-bit X or Y field of an opcode (10_state.md R21). -/
abbrev Reg := BitVec 4

/-- A 12-bit address immediate NNN (30_encoding.md R81). -/
abbrev Imm12 := BitVec 12

/-- The number of VF, the register that doubles as the flag (10_state.md R22). -/
abbrev vF : Reg := 0xF#4

end Sys2Proof
end

