-- ==== Sys2Proof/Config.lean ====
section
/-! DEFINITION. What a run of the core takes as a parameter (00_scope.md R7): the free random byte, and the
default of the parameter FONT. The schedule and the program are data of State. -/

namespace Sys2Proof

/-- The `n`-th random byte the environment supplies where no STEP payload gives one (R190, D15: "a free draw under
no law"). It has no body: no proof can know a value of it. DESIGN CHOICE (log 2). -/
opaque Config.rndByte : Nat → Byte

/-- The default of the parameter FONT as bytes, sixteen glyphs of five (20_memory.md R54). PRESUMED (log 1): the
spec marks the table as general knowledge and says that no rule depends on its values. -/
def Config.defaultFontBytes : List Byte :=
  [0xF0, 0x90, 0x90, 0x90, 0xF0] ++ [0x20, 0x60, 0x20, 0x20, 0x70] ++
  [0xF0, 0x10, 0xF0, 0x80, 0xF0] ++ [0xF0, 0x10, 0xF0, 0x10, 0xF0] ++
  [0x90, 0x90, 0xF0, 0x10, 0x10] ++ [0xF0, 0x80, 0xF0, 0x10, 0xF0] ++
  [0xF0, 0x80, 0xF0, 0x90, 0xF0] ++ [0xF0, 0x10, 0x20, 0x40, 0x40] ++
  [0xF0, 0x90, 0xF0, 0x90, 0xF0] ++ [0xF0, 0x90, 0xF0, 0x10, 0xF0] ++
  [0xF0, 0x90, 0xF0, 0x90, 0x90] ++ [0xE0, 0x90, 0xE0, 0x90, 0xE0] ++
  [0xF0, 0x80, 0x80, 0x80, 0xF0] ++ [0xE0, 0x90, 0x90, 0x90, 0xE0] ++
  [0xF0, 0x80, 0xF0, 0x80, 0xF0] ++ [0xF0, 0x80, 0xF0, 0x80, 0x80]

/-- The default of the parameter FONT (R54, D16). PRESUMED (log 1), unsafe where a claim rests on its bytes. -/
def Config.defaultFont : Vector Byte 80 := ⟨Config.defaultFontBytes.toArray, by decide⟩

end Sys2Proof
end

