-- ==== Sys2Proof/Syntax.lean ====
section
/-! DEFINITION. The instructions as syntax: one constructor per row of spec/opcode_table.json (30_encoding.md R84),
and the shape of one row of the opcode table. -/

namespace Sys2Proof

/-- The 34 instructions. Operands stand in the order of the word's fields (R81), each at its field's width, so that
every term is a legal instruction (R83: every value of X, Y, N, NN and NNN is legal). -/
inductive Instr where
  /-- 00E0 -/
  | cls
  /-- 00EE -/
  | ret
  /-- 1NNN -/
  | jp (nnn : Imm12)
  /-- 2NNN -/
  | call (nnn : Imm12)
  /-- 3XNN -/
  | seVxNn (x : Reg) (nn : Byte)
  /-- 4XNN -/
  | sneVxNn (x : Reg) (nn : Byte)
  /-- 5XY0 -/
  | seVxVy (x y : Reg)
  /-- 6XNN -/
  | ldVxNn (x : Reg) (nn : Byte)
  /-- 7XNN -/
  | addVxNn (x : Reg) (nn : Byte)
  /-- 8XY0 -/
  | ldVxVy (x y : Reg)
  /-- 8XY1 -/
  | or (x y : Reg)
  /-- 8XY2 -/
  | and (x y : Reg)
  /-- 8XY3 -/
  | xor (x y : Reg)
  /-- 8XY4 -/
  | addVxVy (x y : Reg)
  /-- 8XY5 -/
  | sub (x y : Reg)
  /-- 8XY6: Y is present in the word and ignored by the operation (R138) -/
  | shr (x y : Reg)
  /-- 8XY7 -/
  | subn (x y : Reg)
  /-- 8XYE: Y is present in the word and ignored by the operation (R140) -/
  | shl (x y : Reg)
  /-- 9XY0 -/
  | sneVxVy (x y : Reg)
  /-- ANNN -/
  | ldINnn (nnn : Imm12)
  /-- BNNN -/
  | jpV0Nnn (nnn : Imm12)
  /-- CXNN -/
  | rnd (x : Reg) (nn : Byte)
  /-- DXYN -/
  | drw (x y : Reg) (n : BitVec 4)
  /-- EX9E -/
  | skp (x : Reg)
  /-- EXA1 -/
  | sknp (x : Reg)
  /-- FX07 -/
  | ldVxDt (x : Reg)
  /-- FX0A -/
  | ldVxK (x : Reg)
  /-- FX15 -/
  | ldDtVx (x : Reg)
  /-- FX18 -/
  | ldStVx (x : Reg)
  /-- FX1E -/
  | addIVx (x : Reg)
  /-- FX29 -/
  | ldFVx (x : Reg)
  /-- FX33 -/
  | ldBVx (x : Reg)
  /-- FX55 -/
  | ldMemVx (x : Reg)
  /-- FX65 -/
  | ldVxMem (x : Reg)
  deriving DecidableEq, Repr

/-- The six encoding formats (R82). -/
inductive Format where
  /-- 16 literal bits -/
  | L
  /-- family, NNN -/
  | A
  /-- family, X, NN -/
  | RI
  /-- family, X, Y, sub-opcode -/
  | RR
  /-- family, X, Y, N -/
  | RRN
  /-- family, X, 8-bit sub-opcode -/
  | R
  deriving DecidableEq, Repr

/-- The mask that selects the literal bits of a format (R82). -/
def Format.mask : Format → Word
  | .L => 0xFFFF#16
  | .A => 0xF000#16
  | .RI => 0xF000#16
  | .RR => 0xF00F#16
  | .RRN => 0xF000#16
  | .R => 0xF0FF#16

/-- One row of the opcode table (R84): a word `w` is the instruction of the row when `w &&& mask = code`
(`code` is the table's column "match"). -/
structure OpRow where
  mnemonic : String
  format : Format
  mask : Word
  code : Word
  deriving DecidableEq, Repr

/-- Why a decoder reads no instruction from some bytes. -/
inductive Reject where
  /-- fewer than the two bytes of one instruction word (R80) -/
  | truncated
  /-- a word that satisfies no row of the opcode table (R85, R86) -/
  | unrecognized (w : Word)
  deriving DecidableEq, Repr

end Sys2Proof
end

