-- ==== Sys2Proof/WellFormed.lean ====
section
/-! DEFINITION. The well-formedness checks of the syntax: of one row of the opcode table, of the table as a whole,
and of a program handed to the loader. An `Instr` needs none: its operands carry their widths in their types and
30_encoding.md R83 makes every value of every field legal, so an ill-formed instruction cannot be written down. -/

namespace Sys2Proof

/-- The literal bits of a row lie under its mask: otherwise no word could satisfy the row (R84). -/
def OpRow.codeUnderMask (r : OpRow) : Bool := r.code &&& r.mask == r.code

/-- The mask of a row is the one its format selects literal bits with (R82). -/
def OpRow.maskOfFormat (r : OpRow) : Bool := r.mask == r.format.mask

/-- A row of the opcode table is well formed. -/
def OpRow.wf (r : OpRow) : Bool := r.codeUnderMask && r.maskOfFormat

/-- No word satisfies both rows: they differ in a literal bit that both masks select (R85). -/
def OpRow.disjoint (r q : OpRow) : Bool := r.code &&& (r.mask &&& q.mask) != q.code &&& (r.mask &&& q.mask)

/-- Each row is disjoint from every later one (R85: the pairs are pairwise disjoint). -/
def rowsDisjoint : List OpRow → Bool
  | [] => true
  | r :: rs => rs.all r.disjoint && rowsDisjoint rs

/-- An opcode table is well formed: every row is, and decode needs no priority order (R85). -/
def OpRow.tableWf (rows : List OpRow) : Bool := rows.all OpRow.wf && rowsDisjoint rows

/-- A program fits the memory from 0x200 on: at most 0xE00 = 3584 bytes (20_memory.md R60, R61). -/
def programFits (bytes : List Byte) : Bool := decide (bytes.length ≤ 0xE00)

end Sys2Proof
end

