-- ==== Sys2Proof/Decode.lean ====
section
/-! DEFINITION. The decoder of the core (30_encoding.md R80 to R89), total on any word and any bytes, rejecting by
name; after it the encoder, written from the formats of R82; the opcode table of R84; and the row of each
instruction. -/

namespace Sys2Proof

/-- The family, `w[15:12]` (R81). -/
def fieldFamily (w : Word) : BitVec 4 := w.extractLsb' 12 4
/-- X, `w[11:8]` (R81). -/
def fieldX (w : Word) : Reg := w.extractLsb' 8 4
/-- Y, `w[7:4]` (R81). -/
def fieldY (w : Word) : Reg := w.extractLsb' 4 4
/-- N, `w[3:0]` (R81). -/
def fieldN (w : Word) : BitVec 4 := w.extractLsb' 0 4
/-- NN, `w[7:0]` (R81). -/
def fieldNN (w : Word) : Byte := w.extractLsb' 0 8
/-- NNN, `w[11:0]` (R81). -/
def fieldNNN (w : Word) : Imm12 := w.extractLsb' 0 12

/-- The instruction of a word: every literal digit of a pattern is matched, family 0 on the full word, families 5, 8
and 9 on the last nibble, families E and F on the low byte (R85). -/
def decodeWord (w : Word) : Except Reject Instr :=
  match fieldFamily w with
  | 0x0#4 =>
    match fieldNNN w with
    | 0x0E0#12 => .ok .cls
    | 0x0EE#12 => .ok .ret
    | _ => .error (.unrecognized w)
  | 0x1#4 => .ok (.jp (fieldNNN w))
  | 0x2#4 => .ok (.call (fieldNNN w))
  | 0x3#4 => .ok (.seVxNn (fieldX w) (fieldNN w))
  | 0x4#4 => .ok (.sneVxNn (fieldX w) (fieldNN w))
  | 0x5#4 =>
    match fieldN w with
    | 0x0#4 => .ok (.seVxVy (fieldX w) (fieldY w))
    | _ => .error (.unrecognized w)
  | 0x6#4 => .ok (.ldVxNn (fieldX w) (fieldNN w))
  | 0x7#4 => .ok (.addVxNn (fieldX w) (fieldNN w))
  | 0x8#4 =>
    match fieldN w with
    | 0x0#4 => .ok (.ldVxVy (fieldX w) (fieldY w))
    | 0x1#4 => .ok (.or (fieldX w) (fieldY w))
    | 0x2#4 => .ok (.and (fieldX w) (fieldY w))
    | 0x3#4 => .ok (.xor (fieldX w) (fieldY w))
    | 0x4#4 => .ok (.addVxVy (fieldX w) (fieldY w))
    | 0x5#4 => .ok (.sub (fieldX w) (fieldY w))
    | 0x6#4 => .ok (.shr (fieldX w) (fieldY w))
    | 0x7#4 => .ok (.subn (fieldX w) (fieldY w))
    | 0xE#4 => .ok (.shl (fieldX w) (fieldY w))
    | _ => .error (.unrecognized w)
  | 0x9#4 =>
    match fieldN w with
    | 0x0#4 => .ok (.sneVxVy (fieldX w) (fieldY w))
    | _ => .error (.unrecognized w)
  | 0xA#4 => .ok (.ldINnn (fieldNNN w))
  | 0xB#4 => .ok (.jpV0Nnn (fieldNNN w))
  | 0xC#4 => .ok (.rnd (fieldX w) (fieldNN w))
  | 0xD#4 => .ok (.drw (fieldX w) (fieldY w) (fieldN w))
  | 0xE#4 =>
    match fieldNN w with
    | 0x9E#8 => .ok (.skp (fieldX w))
    | 0xA1#8 => .ok (.sknp (fieldX w))
    | _ => .error (.unrecognized w)
  | _ =>
    match fieldNN w with
    | 0x07#8 => .ok (.ldVxDt (fieldX w))
    | 0x0A#8 => .ok (.ldVxK (fieldX w))
    | 0x15#8 => .ok (.ldDtVx (fieldX w))
    | 0x18#8 => .ok (.ldStVx (fieldX w))
    | 0x1E#8 => .ok (.addIVx (fieldX w))
    | 0x29#8 => .ok (.ldFVx (fieldX w))
    | 0x33#8 => .ok (.ldBVx (fieldX w))
    | 0x55#8 => .ok (.ldMemVx (fieldX w))
    | 0x65#8 => .ok (.ldVxMem (fieldX w))
    | _ => .error (.unrecognized w)

/-- The word of two bytes in memory order: the byte at the lower address is the high byte (20_memory.md R55). -/
def wordOfBytes (hi lo : Byte) : Word := hi ++ lo
/-- The high byte of a word, stored at the lower address (R55). -/
def highByte (w : Word) : Byte := w.extractLsb' 8 8
/-- The low byte of a word, stored at the higher address (R55). -/
def lowByte (w : Word) : Byte := w.extractLsb' 0 8

/-- The first instruction of a byte stream and the bytes after it: every instruction is one big-endian 16-bit word
(R80, 20_memory.md R61). -/
def decodeBytes : List Byte → Except Reject (Instr × List Byte)
  | hi :: lo :: rest =>
    match decodeWord (wordOfBytes hi lo) with
    | .ok i => .ok (i, rest)
    | .error e => .error e
  | _ => .error .truncated

/-! ## The encoder -/

/-- Format A: family, NNN (R82). -/
def formatA (family : BitVec 4) (nnn : Imm12) : Word := family ++ nnn
/-- Format RI: family, X, NN (R82). -/
def formatRI (family : BitVec 4) (x : Reg) (nn : Byte) : Word := (family ++ x : BitVec 8) ++ nn
/-- Format RR and RRN: family, X, Y, and the sub-opcode or N (R82). -/
def formatRR (family : BitVec 4) (x y : Reg) (n : BitVec 4) : Word := (family ++ x : BitVec 8) ++ (y ++ n : BitVec 8)
/-- Format R: family, X, 8-bit sub-opcode (R82). -/
def formatR (family : BitVec 4) (x : Reg) (sub : Byte) : Word := (family ++ x : BitVec 8) ++ sub

/-- The word of an instruction (R82, R84). -/
def encode : Instr → Word
  | .cls => 0x00E0#16
  | .ret => 0x00EE#16
  | .jp nnn => formatA 0x1#4 nnn
  | .call nnn => formatA 0x2#4 nnn
  | .seVxNn x nn => formatRI 0x3#4 x nn
  | .sneVxNn x nn => formatRI 0x4#4 x nn
  | .seVxVy x y => formatRR 0x5#4 x y 0x0#4
  | .ldVxNn x nn => formatRI 0x6#4 x nn
  | .addVxNn x nn => formatRI 0x7#4 x nn
  | .ldVxVy x y => formatRR 0x8#4 x y 0x0#4
  | .or x y => formatRR 0x8#4 x y 0x1#4
  | .and x y => formatRR 0x8#4 x y 0x2#4
  | .xor x y => formatRR 0x8#4 x y 0x3#4
  | .addVxVy x y => formatRR 0x8#4 x y 0x4#4
  | .sub x y => formatRR 0x8#4 x y 0x5#4
  | .shr x y => formatRR 0x8#4 x y 0x6#4
  | .subn x y => formatRR 0x8#4 x y 0x7#4
  | .shl x y => formatRR 0x8#4 x y 0xE#4
  | .sneVxVy x y => formatRR 0x9#4 x y 0x0#4
  | .ldINnn nnn => formatA 0xA#4 nnn
  | .jpV0Nnn nnn => formatA 0xB#4 nnn
  | .rnd x nn => formatRI 0xC#4 x nn
  | .drw x y n => formatRR 0xD#4 x y n
  | .skp x => formatR 0xE#4 x 0x9E#8
  | .sknp x => formatR 0xE#4 x 0xA1#8
  | .ldVxDt x => formatR 0xF#4 x 0x07#8
  | .ldVxK x => formatR 0xF#4 x 0x0A#8
  | .ldDtVx x => formatR 0xF#4 x 0x15#8
  | .ldStVx x => formatR 0xF#4 x 0x18#8
  | .addIVx x => formatR 0xF#4 x 0x1E#8
  | .ldFVx x => formatR 0xF#4 x 0x29#8
  | .ldBVx x => formatR 0xF#4 x 0x33#8
  | .ldMemVx x => formatR 0xF#4 x 0x55#8
  | .ldVxMem x => formatR 0xF#4 x 0x65#8

/-! ## The opcode table -/

/-- The row of an instruction in the opcode table of R84, as spec/opcode_table.json spells it. -/
def Instr.row : Instr → OpRow
  | .cls => ⟨"CLS", .L, 0xFFFF#16, 0x00E0#16⟩
  | .ret => ⟨"RET", .L, 0xFFFF#16, 0x00EE#16⟩
  | .jp _ => ⟨"JP", .A, 0xF000#16, 0x1000#16⟩
  | .call _ => ⟨"CALL", .A, 0xF000#16, 0x2000#16⟩
  | .seVxNn _ _ => ⟨"SE_VX_NN", .RI, 0xF000#16, 0x3000#16⟩
  | .sneVxNn _ _ => ⟨"SNE_VX_NN", .RI, 0xF000#16, 0x4000#16⟩
  | .seVxVy _ _ => ⟨"SE_VX_VY", .RR, 0xF00F#16, 0x5000#16⟩
  | .ldVxNn _ _ => ⟨"LD_VX_NN", .RI, 0xF000#16, 0x6000#16⟩
  | .addVxNn _ _ => ⟨"ADD_VX_NN", .RI, 0xF000#16, 0x7000#16⟩
  | .ldVxVy _ _ => ⟨"LD_VX_VY", .RR, 0xF00F#16, 0x8000#16⟩
  | .or _ _ => ⟨"OR", .RR, 0xF00F#16, 0x8001#16⟩
  | .and _ _ => ⟨"AND", .RR, 0xF00F#16, 0x8002#16⟩
  | .xor _ _ => ⟨"XOR", .RR, 0xF00F#16, 0x8003#16⟩
  | .addVxVy _ _ => ⟨"ADD_VX_VY", .RR, 0xF00F#16, 0x8004#16⟩
  | .sub _ _ => ⟨"SUB", .RR, 0xF00F#16, 0x8005#16⟩
  | .shr _ _ => ⟨"SHR", .RR, 0xF00F#16, 0x8006#16⟩
  | .subn _ _ => ⟨"SUBN", .RR, 0xF00F#16, 0x8007#16⟩
  | .shl _ _ => ⟨"SHL", .RR, 0xF00F#16, 0x800E#16⟩
  | .sneVxVy _ _ => ⟨"SNE_VX_VY", .RR, 0xF00F#16, 0x9000#16⟩
  | .ldINnn _ => ⟨"LD_I_NNN", .A, 0xF000#16, 0xA000#16⟩
  | .jpV0Nnn _ => ⟨"JP_V0_NNN", .A, 0xF000#16, 0xB000#16⟩
  | .rnd _ _ => ⟨"RND", .RI, 0xF000#16, 0xC000#16⟩
  | .drw _ _ _ => ⟨"DRW", .RRN, 0xF000#16, 0xD000#16⟩
  | .skp _ => ⟨"SKP", .R, 0xF0FF#16, 0xE09E#16⟩
  | .sknp _ => ⟨"SKNP", .R, 0xF0FF#16, 0xE0A1#16⟩
  | .ldVxDt _ => ⟨"LD_VX_DT", .R, 0xF0FF#16, 0xF007#16⟩
  | .ldVxK _ => ⟨"LD_VX_K", .R, 0xF0FF#16, 0xF00A#16⟩
  | .ldDtVx _ => ⟨"LD_DT_VX", .R, 0xF0FF#16, 0xF015#16⟩
  | .ldStVx _ => ⟨"LD_ST_VX", .R, 0xF0FF#16, 0xF018#16⟩
  | .addIVx _ => ⟨"ADD_I_VX", .R, 0xF0FF#16, 0xF01E#16⟩
  | .ldFVx _ => ⟨"LD_F_VX", .R, 0xF0FF#16, 0xF029#16⟩
  | .ldBVx _ => ⟨"LD_B_VX", .R, 0xF0FF#16, 0xF033#16⟩
  | .ldMemVx _ => ⟨"LD_MEM_VX", .R, 0xF0FF#16, 0xF055#16⟩
  | .ldVxMem _ => ⟨"LD_VX_MEM", .R, 0xF0FF#16, 0xF065#16⟩

/-- The rows of the opcode table, in the order of R84. -/
def opcodeTable : List OpRow :=
  [Instr.row .cls, Instr.row .ret, Instr.row (.jp 0), Instr.row (.call 0), Instr.row (.seVxNn 0 0),
   Instr.row (.sneVxNn 0 0), Instr.row (.seVxVy 0 0), Instr.row (.ldVxNn 0 0), Instr.row (.addVxNn 0 0)] ++
  [Instr.row (.ldVxVy 0 0), Instr.row (.or 0 0), Instr.row (.and 0 0), Instr.row (.xor 0 0),
   Instr.row (.addVxVy 0 0), Instr.row (.sub 0 0), Instr.row (.shr 0 0), Instr.row (.subn 0 0),
   Instr.row (.shl 0 0)] ++
  [Instr.row (.sneVxVy 0 0), Instr.row (.ldINnn 0), Instr.row (.jpV0Nnn 0), Instr.row (.rnd 0 0),
   Instr.row (.drw 0 0 0), Instr.row (.skp 0), Instr.row (.sknp 0)] ++
  [Instr.row (.ldVxDt 0), Instr.row (.ldVxK 0), Instr.row (.ldDtVx 0), Instr.row (.ldStVx 0),
   Instr.row (.addIVx 0), Instr.row (.ldFVx 0), Instr.row (.ldBVx 0), Instr.row (.ldMemVx 0),
   Instr.row (.ldVxMem 0)]

/-- The instruction the decoder reads from an instruction whose bits are `w`, numbered as spec/opcode_table.json
numbers them (bit 0 the least significant bit of the word); bits at or above `nbits` are 0. -/
def decodeTableWord (nbits w : Nat) : Option Instr :=
  let word : Word := BitVec.ofNat 16 (w % 2 ^ nbits)
  match decodeBytes [highByte word, lowByte word] with
  | .ok (i, _) => some i
  | .error _ => none

end Sys2Proof
end

