-- ==== Sys2Proof/Machine/State.lean ====
section
/-! DEFINITION. The state of the core as plain data: the thirteen pieces of 10_state.md R20, and the environment of a
run (its parameters and history, which R9 says are not state of the core), kept apart in `Env`. -/

namespace Sys2Proof.Machine

/-- The five faults of 60_exceptions.md R211, each with the value recorded with it. They are what the register
`fault` holds. The spec gives each its whole effect (R213: `fault` is set and nothing else changes), so a meaning or a
step that raises one answers a NEXT state with `State.fault` set; the host's outcome `Outcome.fault` is answered by
no meaning and no step (DESIGN CHOICE, log 4; safe: no behaviour is dropped or added). -/
inductive Fault where
  /-- Code 1, raised by the fetch of any STEP when PC + 1 > 0xFFF; records PC. Safe: D4 errs toward unprovable. -/
  | fetchOutOfRange (pc : Word)
  /-- Code 2, raised by FX33, FX55, FX65 and DXYN; records the lowest address above 0xFFF. Safe (D4). -/
  | memOutOfRange (addr : Nat)
  /-- Code 3, raised by 2NNN when SP = 16; records the PC of the call. Safe (D5). -/
  | stackOverflow (pc : Word)
  /-- Code 4, raised by 00EE when SP = 0; records the PC of the return. Safe (D6). -/
  | stackUnderflow (pc : Word)
  /-- Code 5, raised by EX9E and EXA1 when VX > 15; records VX. Safe (D7). -/
  | keyIndexOutOfRange (vx : Byte)
  deriving DecidableEq, Repr

/-- Why an instruction has no meaning. Every one of the 34 instructions has a meaning, so nothing raises it. -/
inductive Refusal where
  /-- The instruction of this mnemonic is not modelled yet: raised by no arm of `exec`. Safe: the machine stops. -/
  | notModelled (mnemonic : String)
  deriving DecidableEq, Repr

/-- The 4096-byte store (20_memory.md R50). `font` is the parameter FONT of the run (00_scope.md R7): no event
changes it. `cells` lists, in rising order of address, the bytes that differ from the contents INIT leaves. -/
structure Memory where
  font : Vector Byte 80
  cells : List Host.Cell
  deriving DecidableEq, Repr

/-- The framebuffer: 64 x 32 pixels of one bit, packed in 256 bytes (10_state.md R29). -/
abbrev Framebuffer := Vector Byte 256

/-- The input events and the queries of 10_state.md R36. A payload outside its range is no event (R37), so the types
have none (log 7). -/
inductive Event where
  | init
  | load (bytes : List Byte)
  /-- STEP with the byte `rnd` (R190) -/
  | step (rnd : Byte)
  | tick
  | keyDown (k : Fin 16)
  | keyUp (k : Fin 16)
  | getPixel (x : Fin 64) (y : Fin 32)
  | isDirty
  | setDirty (b : Bool)
  deriving DecidableEq, Repr

/-- What reaches the host: the three output events of R36, and the results of LOAD and of the two queries. -/
inductive Output where
  | beep
  | report (pc word : Word)
  | faulted (f : Fault)
  | loadOk
  | loadCapacityExceeded
  | pixel (b : Bool)
  | dirtyFlag (b : Bool)
  deriving DecidableEq, Repr

/-- The environment of a run: its parameters and its history. It is not state of the core (00_scope.md R9); every
field is the model's own (DESIGN CHOICE, log 2, 3 and 5). -/
structure Env where
  /-- the events still to come, the next one first; where it is empty the next event is a STEP (log 3) -/
  schedule : List Event
  /-- the payload of the STEP in progress, if the event carries one (log 2) -/
  rnd : Option Byte
  /-- how many random bytes have been drawn, the argument of the free value `Config.rndByte` (log 2) -/
  draws : Nat
  /-- the outputs so far, the newest first (log 5) -/
  history : List Output
  deriving DecidableEq, Repr

/-- The state of the core (R20) and its environment. -/
structure State where
  /-- V0..VF (R21, R22) -/
  v : Vector Byte 16
  /-- the index register I (R23) -/
  i : Word
  /-- the program counter PC (R24) -/
  pc : Word
  /-- SP, the number of stacked return addresses, 0..16 (R25) -/
  sp : Fin 17
  /-- the call stack (R26) -/
  stack : Vector Word 16
  /-- the memory (20_memory.md R50) -/
  mem : Memory
  /-- the framebuffer (R29) -/
  fb : Framebuffer
  /-- the dirty flag (R30) -/
  dirty : Bool
  /-- the keypad, true = down (R28) -/
  key : Vector Bool 16
  /-- the delay timer DT (R27) -/
  dt : Byte
  /-- the sound timer ST (R27) -/
  st : Byte
  /-- the fault that halted the core, if one did (R31) -/
  fault : Option Fault
  /-- the diagnostic counter (R32) -/
  cycles : Nat
  /-- the environment of the run -/
  env : Env
  deriving DecidableEq, Repr

/-- The environment of a run that has not begun (DESIGN CHOICE, log 2, 3 and 5). -/
def Env.start : Env := { schedule := [], rnd := none, draws := 0, history := [] }

/-- The state right after INIT with the parameter FONT, in a given environment (10_state.md R35). -/
def State.init (font : Vector Byte 80) (env : Env) : State where
  v := Vector.replicate 16 0
  i := 0x0000
  pc := 0x0200
  sp := 0
  stack := Vector.replicate 16 0
  mem := { font := font, cells := [] }
  fb := Vector.replicate 256 0
  dirty := true
  key := Vector.replicate 16 false
  dt := 0
  st := 0
  fault := none
  cycles := 0
  env := env

/-- The machine right after reset: INIT with the default FONT (PRESUMED, log 1), no event waiting. -/
def State.reset : State := State.init Config.defaultFont Env.start

end Sys2Proof.Machine
end

