-- ==== Sys2Proof/Machine/Ops.lean ====
section
/-! DEFINITION. The named operations over registers, memory, call stack, framebuffer and outputs, and the one shared
operation that raises a fault. -/

namespace Sys2Proof.Machine

/-! ## Registers -/

/-- `V[x]` (10_state.md R21). -/
def State.getV (s : State) (x : Reg) : Byte := s.v[x.toNat]'(x.isLt)

/-- `V[x] <- b` (R21). No register is hardwired. -/
def State.setV (s : State) (x : Reg) (b : Byte) : State := { s with v := s.v.set x.toNat b x.isLt }

/-- `PC <- a`; nothing masks it (R24). -/
def State.setPc (s : State) (a : Word) : State := { s with pc := a }

/-- `PC <- PC + 2`, the default (R24). -/
def State.advance (s : State) : State := s.setPc (s.pc + 2)

/-- A skip: `PC <- PC + 4` if the condition holds, else `PC <- PC + 2` (40_control_flow.md R119). -/
def State.skipIf (s : State) (c : Bool) : State := s.setPc (if c then s.pc + 4 else s.pc + 2)

/-- `I <- a`; nothing masks it to 12 bits (R23). -/
def State.setI (s : State) (a : Word) : State := { s with i := a }

/-- `DT <- b` (R27). -/
def State.setDt (s : State) (b : Byte) : State := { s with dt := b }

/-- `ST <- b` (R27). -/
def State.setSt (s : State) (b : Byte) : State := { s with st := b }

/-- `V[0..n-1]` as a list, for FX55 (42_index_memory.md R154). -/
def State.getVs (s : State) (n : Nat) : List Byte := (List.range n).map (fun k => s.getV (BitVec.ofNat 4 k))

/-- `V[k], V[k+1], ... <- bs` in order, for FX65 (R155). -/
def State.setVs : Nat → List Byte → State → State
  | _, [], s => s
  | k, b :: bs, s => State.setVs (k + 1) bs (s.setV (BitVec.ofNat 4 k) b)

/-! ## Outputs and faults -/

/-- `emit o`: append an output to the run's history (00_scope.md R11), held newest first. -/
def State.emit (s : State) (o : Output) : State := { s with env := { s.env with history := o :: s.env.history } }

/-- The code of a fault (60_exceptions.md R211). -/
def Fault.code : Fault → Nat
  | .fetchOutOfRange _ => 1
  | .memOutOfRange _ => 2
  | .stackOverflow _ => 3
  | .stackUnderflow _ => 4
  | .keyIndexOutOfRange _ => 5

/-- The value recorded with a fault (R211). -/
def Fault.value : Fault → Nat
  | .fetchOutOfRange pc => pc.toNat
  | .memOutOfRange a => a
  | .stackOverflow pc => pc.toNat
  | .stackUnderflow pc => pc.toNat
  | .keyIndexOutOfRange vx => vx.toNat

/-- `raise f`: the fault register takes the code and value, FAULTED is emitted, and nothing else changes
(60_exceptions.md R213, R218). There is no handler and no return: only INIT clears the fault (R219). -/
def State.raise (f : Fault) (s : State) : State := ({ s with fault := some f }).emit (.faulted f)

/-- The core is halted (R212). -/
def State.halted (s : State) : Bool := s.fault.isSome

/-- Go on with the result of an access, or raise its fault on the state before it: all or nothing (R213). -/
def State.attempt {α : Type} (s : State) (r : Except Fault α) (k : α → State) : State :=
  match r with
  | .ok a => k a
  | .error f => s.raise f

/-! ## Memory -/

/-- The contents INIT leaves at an address: FONT at 0x000..0x04F, zero elsewhere (10_state.md R35). It is what an
address that `cells` does not list reads as. -/
def Memory.background (m : Memory) (a : Nat) : Byte := if h : a < 80 then m.font[a] else 0

/-- The byte a cell list holds for an address. -/
def lookupCell (a : Nat) : List Host.Cell → Option Byte
  | [] => none
  | (b, v) :: cs => if a = b then some v else lookupCell a cs

/-- The cell list with the byte of one address replaced or inserted at its place. -/
def insertCell (a : Nat) (v : Byte) : List Host.Cell → List Host.Cell
  | [] => [(a, v)]
  | (b, w) :: cs =>
    if a < b then (a, v) :: (b, w) :: cs
    else if a = b then (a, v) :: cs
    else (b, w) :: insertCell a v cs

/-- The cell list without an address. -/
def removeCell (a : Nat) (cs : List Host.Cell) : List Host.Cell := cs.filter (fun c => c.1 != a)

/-- `mem[a]`, for an address that is already known to be legal. -/
def Memory.read (m : Memory) (a : Nat) : Byte := (lookupCell a m.cells).getD (m.background a)

/-- `mem[a] <- v`, for an address that is already known to be legal; it keeps the canonical form. No region is
read-only (20_memory.md R53, R58). -/
def Memory.write (m : Memory) (a : Nat) (v : Byte) : Memory :=
  if v = m.background a then { m with cells := removeCell a m.cells }
  else { m with cells := insertCell a v m.cells }

/-- The canonical form: addresses strictly rising, each legal (R50), no entry equal to what an unlisted address reads
as. Equal memories are then equal data. -/
abbrev Memory.wf (m : Memory) : Prop :=
  m.cells.Pairwise (fun p q => p.1 < q.1) ∧ ∀ c ∈ m.cells, c.1 ≤ 0xFFF ∧ c.2 ≠ m.background c.1

/-- `mem[a] <- bs[0]`, `mem[a+1] <- bs[1]`, ... for legal addresses (20_memory.md R60). -/
def Memory.writeAll (a : Nat) : List Byte → Memory → Memory
  | [], m => m
  | b :: bs, m => Memory.writeAll (a + 1) bs (m.write a b)

/-- `MemFetch16(pc)`: big-endian, no alignment rule, never wrapped (20_memory.md R55, R56, R59). -/
def Memory.fetch16 (m : Memory) (pc : Word) : Except Fault Word :=
  if pc.toNat + 1 > 0xFFF then .error (.fetchOutOfRange pc)
  else .ok (wordOfBytes (m.read pc.toNat) (m.read (pc.toNat + 1)))

/-- `MemRead(a)` (R57). -/
def Memory.memRead (m : Memory) (a : Nat) : Except Fault Byte :=
  if a > 0xFFF then .error (.memOutOfRange a) else .ok (m.read a)

/-- `MemWrite(a, v)` (R58). -/
def Memory.memWrite (m : Memory) (a : Nat) (v : Byte) : Except Fault Memory :=
  if a > 0xFFF then .error (.memOutOfRange a) else .ok (m.write a v)

/-- `n` reads at `a`, `a+1`, ... in order; the first illegal address is the fault (42_index_memory.md R156). -/
def Memory.memReads (m : Memory) : Nat → Nat → Except Fault (List Byte)
  | _, 0 => .ok []
  | a, n + 1 =>
    match m.memRead a with
    | .error f => .error f
    | .ok b =>
      match m.memReads (a + 1) n with
      | .error f => .error f
      | .ok bs => .ok (b :: bs)

/-- Writes at `a`, `a+1`, ... in order; the first illegal address is the fault, and then there is no new memory, so a
faulting instruction writes nothing (R58, 60_exceptions.md R213). -/
def Memory.memWrites : Nat → List Byte → Memory → Except Fault Memory
  | _, [], m => .ok m
  | a, b :: bs, m =>
    match m.memWrite a b with
    | .error f => .error f
    | .ok m' => Memory.memWrites (a + 1) bs m'

/-- The memory takes a new value. -/
def State.setMem (s : State) (m : Memory) : State := { s with mem := m }

/-! ## The call stack -/

/-- Push a return address; faults when sixteen are stacked (40_control_flow.md R112). -/
def State.push (s : State) (a : Word) : Except Fault State :=
  if h : s.sp.val < 16 then .ok { s with stack := s.stack.set s.sp.val a h, sp := ⟨s.sp.val + 1, by omega⟩ }
  else .error (.stackOverflow s.pc)

/-- Pop the most recent return address, which keeps its slot (R26); faults when none is stacked (R110). -/
def State.pop (s : State) : Except Fault (Word × State) :=
  if h : s.sp.val = 0 then .error (.stackUnderflow s.pc)
  else .ok (s.stack[s.sp.val - 1]'(by omega), { s with sp := ⟨s.sp.val - 1, by omega⟩ })

/-! ## The framebuffer -/

/-- `pix(x, y)`: byte `x/8 + y*8`, bit `7 - x%8` (10_state.md R29). -/
def pixel (fb : Framebuffer) (x y : Nat) : Bool := (fb.getD (x / 8 + y * 8) 0).getLsbD (7 - x % 8)

/-- `pix(x, y) <- pix(x, y) ^ 1`. -/
def flipPixel (fb : Framebuffer) (x y : Nat) : Framebuffer :=
  fb.setIfInBounds (x / 8 + y * 8) (fb.getD (x / 8 + y * 8) 0 ^^^ (1#8 <<< (7 - x % 8)))

/-- The framebuffer takes a new value and `dirty` becomes 1, whether or not a pixel changed (R30). -/
def State.setScreen (s : State) (fb : Framebuffer) : State := { s with fb := fb, dirty := true }

/-! ## The keypad -/

/-- `key[k]` (R28). -/
def State.keyAt (s : State) (k : Fin 16) : Bool := s.key[k]

/-- `key[k] <- b` (60_exceptions.md R228). -/
def State.setKey (s : State) (k : Fin 16) (b : Bool) : State := { s with key := s.key.set k b }

/-- The least down key, if one is down (44_keypad_timers_random.md R194). -/
def State.lowestKey (s : State) : Option (Fin 16) := (List.finRange 16).find? s.keyAt

/-! ## The random byte, the counter, the schedule -/

/-- `rnd`: the payload of the STEP in progress, or a free draw (R190). DESIGN CHOICE (log 2), safe. -/
def State.rndByte (s : State) : Byte :=
  match s.env.rnd with
  | some b => b
  | none => Config.rndByte s.env.draws

/-- One more random byte has been drawn: the next free draw is a fresh one (R190: "afresh for each execution"). -/
def State.drawn (s : State) : State := { s with env := { s.env with draws := s.env.draws + 1 } }

/-- The payload of a STEP, while it is in progress. -/
def State.setRnd (s : State) (r : Option Byte) : State := { s with env := { s.env with rnd := r } }

/-- `cycles <- cycles + 1` (10_state.md R32). -/
def State.countCycle (s : State) : State := { s with cycles := s.cycles + 1 }

/-- The events still to come. -/
def State.setSchedule (s : State) (es : List Event) : State := { s with env := { s.env with schedule := es } }

end Sys2Proof.Machine
end

