-- ==== Sys2Proof/Machine/Operands.lean ====
section
/-! DEFINITION. The operand forms: zero-extension of immediates and registers (30_encoding.md R83) and the one data
addressing mode (42_index_memory.md R156). -/

namespace Sys2Proof.Machine

/-- `zext_16(NNN)` (R83). -/
def zextImm (nnn : Imm12) : Word := nnn.setWidth 16

/-- `zext_16(V)` (R83). -/
def zextByte (b : Byte) : Word := b.setWidth 16

/-- The address of the byte at I + k, a natural number reduced to no width (R156). -/
def State.dataAddress (s : State) (k : Nat) : Nat := s.i.toNat + k

/-- The key a register names, or the fault of a value above 15, which is not reduced to its low nibble
(44_keypad_timers_random.md R191, D7). -/
def State.keyOperand (s : State) (x : Reg) : Except Fault (Fin 16) :=
  if h : (s.getV x).toNat < 16 then .ok ⟨(s.getV x).toNat, h⟩ else .error (.keyIndexOutOfRange (s.getV x))

end Sys2Proof.Machine
end

