-- ==== Sys2Proof/Machine/Flags.lean ====
section
/-! DEFINITION. The values the seven flag-writing instructions put in VF (10_state.md R22). -/

namespace Sys2Proof.Machine

/-- 8XY4: 1 if VX + VY > 255, a sum of naturals (41_alu.md R136). -/
def carryFlag (a b : Byte) : Byte := if a.toNat + b.toNat > 255 then 1 else 0

/-- 8XY5 and 8XY7: 0 if VX <= VY, else 1; the same test in both (R137, R139, 90_conflicts.md C3). -/
def greaterFlag (a b : Byte) : Byte := if a.toNat ≤ b.toNat then 0 else 1

/-- 8XY6: bit 0 of VX before the shift (R138). -/
def lowBitFlag (a : Byte) : Byte := a &&& 1

/-- 8XYE: bit 7 of VX before the shift (R140). -/
def highBitFlag (a : Byte) : Byte := a >>> 7

/-- FX1E: 1 if the new I is above 0xFFF (42_index_memory.md R151). -/
def indexFlag (i : Word) : Byte := if i.toNat > 0xFFF then 1 else 0

/-- DXYN: 1 if the blit cleared a set pixel (43_graphics.md R173). -/
def collisionFlag (c : Bool) : Byte := if c then 1 else 0

/-- `V[0xF] <- f`, then `V[X] <- result` of the state the first statement left (00_scope.md R12, 41_alu.md R142). -/
def State.flagThenResult (s : State) (f : Byte) (x : Reg) (result : State → Byte) : State :=
  (s.setV vF f).setV x (result (s.setV vF f))

end Sys2Proof.Machine
end

