-- ==== Sys2Proof/Machine/Arithmetic.lean ====
section
/-! DEFINITION. The register load and arithmetic-logic instructions (41_alu.md): unsigned 8-bit values modulo 256
(R141). -/

namespace Sys2Proof.Machine

/-- 6XNN LD Vx, nn (R130). -/
def execLdVxNn (x : Reg) (nn : Byte) (s : State) : Host.Outcome State Fault Refusal :=
  .next (s.setV x nn).advance

/-- 7XNN ADD Vx, nn (R131): no flag is written. -/
def execAddVxNn (x : Reg) (nn : Byte) (s : State) : Host.Outcome State Fault Refusal :=
  .next (s.setV x (s.getV x + nn)).advance

/-- 8XY0 LD Vx, Vy (R132). -/
def execLdVxVy (x y : Reg) (s : State) : Host.Outcome State Fault Refusal :=
  .next (s.setV x (s.getV y)).advance

/-- 8XY1 OR Vx, Vy (R133): VF is not written. -/
def execOr (x y : Reg) (s : State) : Host.Outcome State Fault Refusal :=
  .next (s.setV x (s.getV x ||| s.getV y)).advance

/-- 8XY2 AND Vx, Vy (R134): VF is not written. -/
def execAnd (x y : Reg) (s : State) : Host.Outcome State Fault Refusal :=
  .next (s.setV x (s.getV x &&& s.getV y)).advance

/-- 8XY3 XOR Vx, Vy (R135): VF is not written. -/
def execXor (x y : Reg) (s : State) : Host.Outcome State Fault Refusal :=
  .next (s.setV x (s.getV x ^^^ s.getV y)).advance

/-- 8XY4 ADD Vx, Vy (R136). -/
def execAddVxVy (x y : Reg) (s : State) : Host.Outcome State Fault Refusal :=
  .next (s.flagThenResult (carryFlag (s.getV x) (s.getV y)) x fun t => t.getV x + t.getV y).advance

/-- 8XY5 SUB Vx, Vy (R137): equal operands give VF = 0. -/
def execSub (x y : Reg) (s : State) : Host.Outcome State Fault Refusal :=
  .next (s.flagThenResult (greaterFlag (s.getV x) (s.getV y)) x fun t => t.getV x - t.getV y).advance

/-- 8XY6 SHR Vx (R138): Y is ignored. -/
def execShr (x _y : Reg) (s : State) : Host.Outcome State Fault Refusal :=
  .next (s.flagThenResult (lowBitFlag (s.getV x)) x fun t => t.getV x >>> 1).advance

/-- 8XY7 SUBN Vx, Vy (R139): the same test as 8XY5, so VF = 1 means that VY - VX borrowed. -/
def execSubn (x y : Reg) (s : State) : Host.Outcome State Fault Refusal :=
  .next (s.flagThenResult (greaterFlag (s.getV x) (s.getV y)) x fun t => t.getV y - t.getV x).advance

/-- 8XYE SHL Vx (R140): Y is ignored. -/
def execShl (x _y : Reg) (s : State) : Host.Outcome State Fault Refusal :=
  .next (s.flagThenResult (highBitFlag (s.getV x)) x fun t => t.getV x <<< 1).advance

end Sys2Proof.Machine
end

