-- ==== Sys2Proof/Machine/ControlFlow.lean ====
section
/-! DEFINITION. The control flow instructions (40_control_flow.md). -/

namespace Sys2Proof.Machine

/-- 00EE RET (R110): PC becomes the popped value itself. -/
def execRet (s : State) : Host.Outcome State Fault Refusal :=
  .next (s.attempt s.pop fun p => p.2.setPc p.1)

/-- 1NNN JP nnn (R111). -/
def execJp (nnn : Imm12) (s : State) : Host.Outcome State Fault Refusal :=
  .next (s.setPc (zextImm nnn))

/-- 2NNN CALL nnn (R112). -/
def execCall (nnn : Imm12) (s : State) : Host.Outcome State Fault Refusal :=
  .next (s.attempt (s.push (s.pc + 2)) fun t => t.setPc (zextImm nnn))

/-- BNNN JP V0, nnn (R113): a 16-bit sum, not reduced to 12 bits. -/
def execJpV0Nnn (nnn : Imm12) (s : State) : Host.Outcome State Fault Refusal :=
  .next (s.setPc (zextImm nnn + zextByte (s.getV 0)))

/-- 3XNN SE Vx, nn (R114). -/
def execSeVxNn (x : Reg) (nn : Byte) (s : State) : Host.Outcome State Fault Refusal :=
  .next (s.skipIf (s.getV x == nn))

/-- 4XNN SNE Vx, nn (R115). -/
def execSneVxNn (x : Reg) (nn : Byte) (s : State) : Host.Outcome State Fault Refusal :=
  .next (s.skipIf (s.getV x != nn))

/-- 5XY0 SE Vx, Vy (R116). -/
def execSeVxVy (x y : Reg) (s : State) : Host.Outcome State Fault Refusal :=
  .next (s.skipIf (s.getV x == s.getV y))

/-- 9XY0 SNE Vx, Vy (R117). -/
def execSneVxVy (x y : Reg) (s : State) : Host.Outcome State Fault Refusal :=
  .next (s.skipIf (s.getV x != s.getV y))

end Sys2Proof.Machine
end

