-- ==== Sys2Proof/Machine/Graphics.lean ====
section
/-! DEFINITION. The framebuffer instructions (43_graphics.md). The blit is the pixel loop of R171. -/

namespace Sys2Proof.Machine

/-- A framebuffer and whether a set pixel has been cleared so far. -/
abbrev Blit := Framebuffer × Bool

/-- Column `c` of a sprite row `b` at (x0, yy): a set sprite pixel that is on the screen toggles its pixel and
collides with a set one; one past column 63 is dropped, not wrapped (R171, R174). -/
def drawPixel (b : Byte) (x0 yy c : Nat) (p : Blit) : Blit :=
  if b.getLsbD (7 - c) && decide (x0 + c ≤ 63) then
    (flipPixel p.1 (x0 + c) yy, p.2 || pixel p.1 (x0 + c) yy)
  else p

/-- One sprite row, leftmost pixel first (R171, R172). -/
def drawRow (b : Byte) (x0 yy : Nat) (p : Blit) : Blit :=
  (List.range 8).foldl (fun q c => drawPixel b x0 yy c q) p

/-- The sprite rows from row `r` on, at screen row (y0 + r) mod 32 (R171, R174). -/
def drawRows (x0 y0 : Nat) : Nat → List Byte → Blit → Blit
  | _, [], p => p
  | r, b :: bs, p => drawRows x0 y0 (r + 1) bs (drawRow b x0 ((y0 + r) % 32) p)

/-- 00E0 CLS (R170). -/
def execCls (s : State) : Host.Outcome State Fault Refusal :=
  .next (s.setScreen (Vector.replicate 256 0)).advance

/-- DXYN DRW Vx, Vy, n (R171): the coordinates are not reduced, VF is written last. The N sprite bytes are read before
the first pixel is drawn; no pixel changes memory, so this is the loop of R171 (DEDUCED, log 8). -/
def execDrw (x y : Reg) (n : BitVec 4) (s : State) : Host.Outcome State Fault Refusal :=
  .next (s.attempt (s.mem.memReads (s.dataAddress 0) n.toNat) fun rows =>
    let p := drawRows (s.getV x).toNat (s.getV y).toNat 0 rows (s.fb, false)
    ((s.setScreen p.1).setV vF (collisionFlag p.2)).advance)

end Sys2Proof.Machine
end

