-- ==== Sys2Proof/Machine/IndexMemory.lean ====
section
/-! DEFINITION. The index register and memory instructions (42_index_memory.md). None changes I by an access (R156). -/

namespace Sys2Proof.Machine

/-- ANNN LD I, nnn (R150). -/
def execLdINnn (nnn : Imm12) (s : State) : Host.Outcome State Fault Refusal :=
  .next (s.setI (zextImm nnn)).advance

/-- FX1E ADD I, Vx (R151): I first, modulo 65536, then VF from the new I. -/
def execAddIVx (x : Reg) (s : State) : Host.Outcome State Fault Refusal :=
  let t := s.setI (s.i + zextByte (s.getV x))
  .next (t.setV vF (indexFlag t.i)).advance

/-- FX29 LD F, Vx (R152): VX is not reduced to its low nibble. -/
def execLdFVx (x : Reg) (s : State) : Host.Outcome State Fault Refusal :=
  .next (s.setI (zextByte (s.getV x) * 5)).advance

/-- The three decimal digits of a byte: hundreds, tens, units (R153). -/
def bcdDigits (b : Byte) : List Byte := [b / 100, b / 10 % 10, b % 10]

/-- FX33 LD B, Vx (R153). -/
def execLdBVx (x : Reg) (s : State) : Host.Outcome State Fault Refusal :=
  .next (s.attempt (Memory.memWrites (s.dataAddress 0) (bcdDigits (s.getV x)) s.mem) fun m => (s.setMem m).advance)

/-- FX55 LD [I], Vx (R154): V0..VX, X + 1 bytes. -/
def execLdMemVx (x : Reg) (s : State) : Host.Outcome State Fault Refusal :=
  .next (s.attempt (Memory.memWrites (s.dataAddress 0) (s.getVs (x.toNat + 1)) s.mem) fun m => (s.setMem m).advance)

/-- FX65 LD Vx, [I] (R155): V0..VX, X + 1 bytes. -/
def execLdVxMem (x : Reg) (s : State) : Host.Outcome State Fault Refusal :=
  .next (s.attempt (s.mem.memReads (s.dataAddress 0) (x.toNat + 1)) fun bs => (State.setVs 0 bs s).advance)

end Sys2Proof.Machine
end

