-- ==== Sys2Proof/Machine/KeypadTimers.lean ====
section
/-! DEFINITION. The random, keypad and timer instructions (44_keypad_timers_random.md). -/

namespace Sys2Proof.Machine

/-- CXNN RND Vx, nn (R190). -/
def execRnd (x : Reg) (nn : Byte) (s : State) : Host.Outcome State Fault Refusal :=
  .next (s.drawn.setV x (s.rndByte &&& nn)).advance

/-- EX9E SKP Vx (R191). -/
def execSkp (x : Reg) (s : State) : Host.Outcome State Fault Refusal :=
  .next (s.attempt (s.keyOperand x) fun k => s.skipIf (s.keyAt k))

/-- EXA1 SKNP Vx (R192). -/
def execSknp (x : Reg) (s : State) : Host.Outcome State Fault Refusal :=
  .next (s.attempt (s.keyOperand x) fun k => s.skipIf (!s.keyAt k))

/-- FX07 LD Vx, DT (R193). -/
def execLdVxDt (x : Reg) (s : State) : Host.Outcome State Fault Refusal :=
  .next (s.setV x s.dt).advance

/-- FX0A LD Vx, K (R194): with no key down nothing changes and the same PC is executed again; no waiting flag is kept
(10_state.md R34). -/
def execLdVxK (x : Reg) (s : State) : Host.Outcome State Fault Refusal :=
  .next (match s.lowestKey with
    | none => s
    | some k => (s.setV x (BitVec.ofNat 8 k.val)).advance)

/-- FX15 LD DT, Vx (R195). -/
def execLdDtVx (x : Reg) (s : State) : Host.Outcome State Fault Refusal :=
  .next (s.setDt (s.getV x)).advance

/-- FX18 LD ST, Vx (R196): no BEEP, whatever the values. -/
def execLdStVx (x : Reg) (s : State) : Host.Outcome State Fault Refusal :=
  .next (s.setSt (s.getV x)).advance

end Sys2Proof.Machine
end

