-- ==== Sys2Proof/Machine/Cycle.lean ====
section
/-! DEFINITION. One STEP event (30_encoding.md R88): fetch, decode, execute, count. -/

namespace Sys2Proof.Machine

/-- An UNRECOGNIZED word: reported and stepped over; not a fault (R87, 60_exceptions.md R215). -/
def State.reportWord (w : Word) (s : State) : State := (s.emit (.report s.pc w)).advance

/-- The end of a STEP: its payload is gone, and `cycles` counts it if it raised no fault (10_state.md R32). -/
def State.retire (s : State) : State :=
  if s.halted then s.setRnd none else (s.setRnd none).countCycle

/-- `State.retire` of a next state; a stop stays a stop. -/
def retireOutcome : Host.Outcome State Fault Refusal → Host.Outcome State Fault Refusal
  | .next t => .next t.retire
  | .fault f => .fault f
  | .refused r => .refused r

/-- Execute the fetched word: the meaning of its instruction, or the soft failure (R85, R87, R88). -/
def executeWord (w : Word) (s : State) : Host.Outcome State Fault Refusal :=
  match decodeWord w with
  | .ok i => exec i s
  | .error _ => .next (s.reportWord w)

/-- STEP, with its payload if the event carries one (R88). A halted core executes nothing (60_exceptions.md R212). -/
def cycle (r : Option Byte) (s : State) : Host.Outcome State Fault Refusal :=
  if s.halted then .next s
  else
    match s.mem.fetch16 s.pc with
    | .error f => retireOutcome (.next ((s.setRnd r).raise f))
    | .ok w => retireOutcome (executeWord w (s.setRnd r))

end Sys2Proof.Machine
end

