-- ==== Sys2Proof/Machine/Events.lean ====
section
/-! DEFINITION. The input events and queries of the interface (10_state.md R36) and the choice of the next one. -/

namespace Sys2Proof.Machine

/-- An event that a halted core ignores (60_exceptions.md R212). -/
def State.unlessHalted (s : State) (k : State → State) : State := if s.halted then s else k s

/-- INIT (70_reset_and_hazards.md R240): every piece of state takes its reset value, whatever it held. FONT and the
environment are the run's, not the core's state (00_scope.md R9), and stay. -/
def State.initEvent (s : State) : State := State.init s.mem.font s.env

/-- LOAD (20_memory.md R60): the program at 0x200 onward, nothing else; too long a program changes nothing. -/
def State.loadEvent (bytes : List Byte) (s : State) : State :=
  if programFits bytes then (s.setMem (Memory.writeAll 0x200 bytes s.mem)).emit .loadOk
  else s.emit .loadCapacityExceeded

/-- A timer one tick later: 0 stays 0 (60_exceptions.md R225). -/
def tickTimer (t : Byte) : Byte := if t.toNat > 0 then t - 1 else t

/-- TICK (R225): both timers count down; BEEP on the tick that takes ST from 1 to 0 and on no other. -/
def State.tickEvent (s : State) : State :=
  let t := (s.setDt (tickTimer s.dt)).setSt (tickTimer s.st)
  if s.st.toNat > 0 ∧ t.st = 0 then t.emit .beep else t

/-- SETDIRTY (43_graphics.md R176). -/
def State.setDirtyEvent (b : Bool) (s : State) : State := { s with dirty := b }

/-- One event (10_state.md R36). A halted core takes INIT and answers the queries from the frozen state, and ignores
every other event; it gives no result to a LOAD (60_exceptions.md R212). -/
def handle (e : Event) (s : State) : Host.Outcome State Fault Refusal :=
  match e with
  | .init => .next s.initEvent
  | .load bytes => .next (s.unlessHalted (State.loadEvent bytes))
  | .step rnd => cycle (some rnd) s
  | .tick => .next (s.unlessHalted State.tickEvent)
  | .keyDown k => .next (s.unlessHalted fun t => t.setKey k true)
  | .keyUp k => .next (s.unlessHalted fun t => t.setKey k false)
  | .getPixel x y => .next (s.emit (.pixel (pixel s.fb x y)))
  | .isDirty => .next (s.emit (.dirtyFlag s.dirty))
  | .setDirty b => .next (s.unlessHalted (State.setDirtyEvent b))

/-- The next event of the schedule; where it is empty, a STEP whose byte is a free draw (DESIGN CHOICE, log 3). -/
def runNext (s : State) : Host.Outcome State Fault Refusal :=
  match s.env.schedule with
  | [] => cycle none s
  | e :: es => handle e (s.setSchedule es)

/-- Where the next fetch is made: at PC, or at 0x200 where PC is beyond the last fetch address (log 6). -/
def fetchSite (pc : Word) : Word := if pc.toNat ≤ 0xFFE then pc else 0x200

/-- The state with a word stored at the address of the next fetch, and nothing that would keep the next event from
being a STEP that fetches it: no fault, no other event waiting (log 6). -/
def State.placeWord (s : State) (w : Word) : State :=
  let pc := fetchSite s.pc
  { s with
    pc := pc
    mem := (s.mem.write pc.toNat (highByte w)).write (pc.toNat + 1) (lowByte w)
    fault := none
    env := { s.env with schedule := [] } }

end Sys2Proof.Machine
end

