-- ==== Sys2Proof/Machine/Step.lean ====
section
/-! DEFINITION. The step of the machine, and the placing of a word where it fetches next. -/

namespace Sys2Proof.Machine

/-- One event of the core: the next one of the schedule, or a STEP where none waits (DESIGN CHOICE, log 3). -/
def step (s : State) : Host.Outcome State Fault Refusal := runNext s

/-- `s` with the instruction whose bits are `w` (numbered as spec/opcode_table.json numbers them, bits at or above
`nbits` zero) stored where `step` fetches its next instruction. -/
def State.withFetchWord (s : State) (nbits w : Nat) : State := s.placeWord (BitVec.ofNat 16 (w % 2 ^ nbits))

end Sys2Proof.Machine
end

