-- ==== Sys2Proof/Safety.lean ====
section
/-! DEFINITION. The terms claims are made in: what a safe run is, the invariant of the core, the frame of an
instruction, and the model's own end of a run. -/

namespace Sys2Proof.Machine

/-- The next `k` steps reach no halted state. A reached halted state "refutes any claim of normal completion" and is
never an end state (60_exceptions.md R212). -/
def SafeFor : Nat → State → Prop
  | 0, s => s.fault = none
  | k + 1, s => s.fault = none ∧ ∃ t, step s = .next t ∧ SafeFor k t

/-- `k` steps lead from one state to another. -/
def StepsTo : Nat → State → State → Prop
  | 0, s, t => s = t
  | k + 1, s, t => ∃ u, step s = .next u ∧ StepsTo k u t

/-- PC holds the address of a jump to itself: the model's own end of a run, not the core's (70_reset_and_hazards.md
R243). -/
def State.atSelfJump (s : State) : Prop :=
  ∃ w nnn, s.mem.fetch16 s.pc = .ok w ∧ decodeWord w = .ok (.jp nnn) ∧ zextImm nnn = s.pc

/-- What holds in every state a run from INIT can reach: memory keeps its canonical form; PC is at most 0x10FE
(10_state.md R24); every stack entry is at most 0xFFE + 2 (R24, 40_control_flow.md R112). -/
def State.Inv (s : State) : Prop :=
  s.mem.wf ∧ s.pc.toNat ≤ 0x10FE ∧ ∀ j : Fin 16, s.stack[j].toNat ≤ 0x1000

/-- The pieces of state of 10_state.md R20, and the environment of the run. -/
inductive Piece where
  | v | i | pc | sp | stack | mem | fb | dirty | key | dt | st | fault | cycles | env
  deriving DecidableEq, Repr

/-- A piece of state is the same in two states; memory is compared by its read of every byte. -/
def Unchanged (s t : State) : Piece → Prop
  | .v => ∀ r, t.getV r = s.getV r
  | .i => t.i = s.i
  | .pc => t.pc = s.pc
  | .sp => t.sp = s.sp
  | .stack => t.stack = s.stack
  | .mem => ∀ a, t.mem.read a = s.mem.read a
  | .fb => t.fb = s.fb
  | .dirty => t.dirty = s.dirty
  | .key => t.key = s.key
  | .dt => t.dt = s.dt
  | .st => t.st = s.st
  | .fault => t.fault = s.fault
  | .cycles => t.cycles = s.cycles
  | .env => t.env = s.env

/-- The frame rule (00_scope.md R13, the spec's decision D10): every piece of state but the listed ones is unchanged. -/
def UnchangedExcept (ps : List Piece) (s t : State) : Prop := ∀ p, p ∉ ps → Unchanged s t p

/-- The whole effect is to raise a fault: the fault register and the output FAULTED, nothing else
(60_exceptions.md R213, R218). -/
def RaisesOnly (s t : State) (f : Fault) : Prop :=
  t.fault = some f ∧ t.env = { s.env with history := .faulted f :: s.env.history } ∧
    UnchangedExcept [.fault, .env] s t

/-- The instruction's whole effect is `V[x] <- b; PC <- PC + 2`. -/
def WritesOneRegister (s t : State) (x : Reg) (b : Byte) : Prop :=
  t.getV x = b ∧ (∀ r, r ≠ x → t.getV r = s.getV r) ∧ t.pc = s.pc + 2 ∧ UnchangedExcept [.v, .pc] s t

/-- The effect of the five instructions that write VF and then VX, by the columns of the table of 41_alu.md R142:
`flag` from the values before the instruction, `result` from the registers after the flag is written (the spec's
decision D9, log 10). -/
def WritesFlagThenResult (s t : State) (x y : Reg) (flag result : Nat → Nat → Nat) : Prop :=
  let a := (s.getV x).toNat
  let b := (s.getV y).toNat
  let f := flag a b
  (x ≠ vF → y ≠ vF → (t.getV x).toNat = result a b ∧ (t.getV vF).toNat = f) ∧
  (x = vF → y ≠ vF → (t.getV vF).toNat = result f b) ∧
  (x ≠ vF → y = vF → (t.getV x).toNat = result a f ∧ (t.getV vF).toNat = f) ∧
  (x = vF → y = vF → (t.getV vF).toNat = result f f) ∧
  (∀ r, r ≠ x → r ≠ vF → t.getV r = s.getV r) ∧ t.pc = s.pc + 2 ∧ UnchangedExcept [.v, .pc] s t

/-- The next event is a STEP: the schedule says so, or it is empty, and then the next event is a STEP by the model's own
choice (DESIGN CHOICE, log 3). -/
def State.nextIsStep (s : State) : Prop := s.env.schedule = [] ∨ ∃ b es, s.env.schedule = .step b :: es

/-- The sprite of an execution of DXYN, whose bytes stand at I, has a set pixel at (x, y) of the screen: row r is at
screen row (y0 + r) mod 32, bit 7 - c of a row at column x0 + c, not wrapped (43_graphics.md R171, R172, R174). -/
def State.spriteCovers (s : State) (x0 y0 n x y : Nat) : Prop :=
  ∃ r c, r < n ∧ c < 8 ∧ (y0 + r) % 32 = y ∧ x0 + c = x ∧ (s.mem.read (s.i.toNat + r)).getLsbD (7 - c) = true

/-- What address `a` reads as once the `n` bytes at I hold `g 0`, `g 1`, ... and every other byte is as in `s`. -/
def State.storedOver (s : State) (n : Nat) (g : Nat → Byte) (a : Nat) : Byte :=
  if s.i.toNat ≤ a ∧ a < s.i.toNat + n then g (a - s.i.toNat) else s.mem.read a

/-- The pieces of state an instruction may change when it raises no fault, read off the effects of the rules of
40_control_flow.md to 44_keypad_timers_random.md; every one of them may change PC. -/
def effectsOf : Instr → List Piece
  | .cls => [.pc, .fb, .dirty]
  | .ret => [.pc, .sp]
  | .jp _ | .jpV0Nnn _ => [.pc]
  | .call _ => [.pc, .sp, .stack]
  | .seVxNn _ _ | .sneVxNn _ _ | .seVxVy _ _ | .sneVxVy _ _ | .skp _ | .sknp _ => [.pc]
  | .ldVxNn _ _ | .addVxNn _ _ | .ldVxVy _ _ | .or _ _ | .and _ _ | .xor _ _ => [.pc, .v]
  | .addVxVy _ _ | .sub _ _ | .shr _ _ | .subn _ _ | .shl _ _ => [.pc, .v]
  | .ldVxDt _ | .ldVxK _ | .ldVxMem _ => [.pc, .v]
  | .rnd _ _ => [.pc, .v, .env]
  | .drw _ _ _ => [.pc, .v, .fb, .dirty]
  | .ldINnn _ | .ldFVx _ => [.pc, .i]
  | .addIVx _ => [.pc, .i, .v]
  | .ldDtVx _ => [.pc, .dt]
  | .ldStVx _ => [.pc, .st]
  | .ldBVx _ | .ldMemVx _ => [.pc, .mem]

/-- The registers an instruction may change: its destination, and VF for the seven that write it as a side effect
(10_state.md R22); FX65 loads V0..VX (42_index_memory.md R155). -/
def writesReg : Instr → Reg → Prop
  | .ldVxNn x _, r | .addVxNn x _, r | .ldVxVy x _, r | .or x _, r | .and x _, r | .xor x _, r => r = x
  | .rnd x _, r | .ldVxDt x, r | .ldVxK x, r => r = x
  | .addVxVy x _, r | .sub x _, r | .shr x _, r | .subn x _, r | .shl x _, r => r = x ∨ r = vF
  | .drw _ _ _, r | .addIVx _, r => r = vF
  | .ldVxMem x, r => r.toNat ≤ x.toNat
  | .cls, _ | .ret, _ | .jp _, _ | .call _, _ | .seVxNn _ _, _ | .sneVxNn _ _, _ | .seVxVy _ _, _ => False
  | .sneVxVy _ _, _ | .ldINnn _, _ | .jpV0Nnn _, _ | .skp _, _ | .sknp _, _ | .ldDtVx _, _ => False
  | .ldStVx _, _ | .ldFVx _, _ | .ldBVx _, _ | .ldMemVx _, _ => False

/-- The fault of an access to `n` bytes at I, if one of their addresses is above 0xFFF: the lowest such address. -/
def State.rangeFault (s : State) (n : Nat) : Option Fault :=
  if 0 < n ∧ s.i.toNat + n - 1 > 0xFFF then some (.memOutOfRange (max s.i.toNat 0x1000)) else none

/-- The table of 60_exceptions.md R211, rows 2 to 5: the fault an instruction raises on a state, if it raises one. -/
def faultOf (i : Instr) (s : State) : Option Fault :=
  match i with
  | .ldBVx _ => s.rangeFault 3
  | .ldMemVx x | .ldVxMem x => s.rangeFault (x.toNat + 1)
  | .drw _ _ n => s.rangeFault n.toNat
  | .call _ => if s.sp.val = 16 then some (.stackOverflow s.pc) else none
  | .ret => if s.sp.val = 0 then some (.stackUnderflow s.pc) else none
  | .skp x | .sknp x => if (s.getV x).toNat > 15 then some (.keyIndexOutOfRange (s.getV x)) else none
  | .cls | .jp _ | .jpV0Nnn _ | .seVxNn _ _ | .sneVxNn _ _ | .seVxVy _ _ | .sneVxVy _ _ | .ldVxNn _ _ => none
  | .addVxNn _ _ | .ldVxVy _ _ | .or _ _ | .and _ _ | .xor _ _ | .addVxVy _ _ | .sub _ _ | .shr _ _ => none
  | .subn _ _ | .shl _ _ | .ldINnn _ | .rnd _ _ | .ldVxDt _ | .ldVxK _ | .ldDtVx _ | .ldStVx _ => none
  | .addIVx _ | .ldFVx _ => none

end Sys2Proof.Machine
end

