-- ==== Sys2Proof/Certificates/Slice0/Obligations.lean ====
section
/-! DEFINITION. The statements about the core, from the numbered rules of spec/. A statement about a meaning is about
`exec`; one about an event is about `step`. Every statement holds for every FONT, every random byte, every schedule
and every host history, since those are fields of the state it quantifies over. -/

open Sys2Proof Sys2Proof.Machine

/-! ## Encoding -/

/-- Decoding the word, or the two bytes in memory order, of any instruction gives it back, whatever follows. -/
def Obligations.DecodeOfEncodeIsTheInstruction : Prop :=
  ∀ i : Instr, decodeWord (encode i) = .ok i ∧
    ∀ rest, decodeBytes (highByte (encode i) :: lowByte (encode i) :: rest) = .ok (i, rest)

/-- A word that decodes is the encoding of what it decodes to: no bit of it is dropped. -/
def Obligations.EncodeOfDecodeIsTheWord : Prop :=
  ∀ (w : Word) (i : Instr), decodeWord w = .ok i → encode i = w

/-- R85: a word decodes to the row whose mask and match it satisfies and to UNRECOGNIZED when it satisfies none; the
34 pairs are pairwise disjoint. That every literal digit is matched is the spec's decision D8. -/
def Obligations.DecodeFollowsTheOpcodeTable : Prop :=
  (∀ w i, decodeWord w = .ok i → i.row ∈ opcodeTable ∧ w &&& i.row.mask = i.row.code) ∧
  (∀ w : Word, ∀ r ∈ opcodeTable, w &&& r.mask = r.code → ∃ i, decodeWord w = .ok i ∧ i.row = r) ∧
  (∀ w : Word, (∀ r ∈ opcodeTable, w &&& r.mask ≠ r.code) → decodeWord w = .error (.unrecognized w)) ∧
  opcodeTable.length = 34 ∧
  opcodeTable.Pairwise (fun r q => ∀ w : Word, ¬ (w &&& r.mask = r.code ∧ w &&& q.mask = q.code))

/-- R86, which the spec derives: the UNRECOGNIZED words, family by family (the spec's decision D8). -/
def Obligations.UnrecognizedWordsAreThoseListed : Prop :=
  ∀ w : Word, decodeWord w = .error (.unrecognized w) ↔
    (w.toNat < 0x1000 ∧ w.toNat ≠ 0x00E0 ∧ w.toNat ≠ 0x00EE) ∨
    (w.toNat / 4096 = 0x5 ∧ w.toNat % 16 ≠ 0) ∨
    (w.toNat / 4096 = 0x8 ∧ w.toNat % 16 ∈ [0x8, 0x9, 0xA, 0xB, 0xC, 0xD, 0xF]) ∨
    (w.toNat / 4096 = 0x9 ∧ w.toNat % 16 ≠ 0) ∨
    (w.toNat / 4096 = 0xE ∧ w.toNat % 256 ∉ [0x9E, 0xA1]) ∨
    (w.toNat / 4096 = 0xF ∧ w.toNat % 256 ∉ [0x07, 0x0A, 0x15, 0x18, 0x1E, 0x29, 0x33, 0x55, 0x65])

/-- Words written out from the patterns of R84, at least one of each of the sixteen families (top nibble, R81) and of
each of the six formats of R82, decode to the instructions they stand for; a word of family 0 that is neither 00E0 nor
00EE is UNRECOGNIZED (the spec's decision D8). -/
def Obligations.SampleWordsDecode : Prop :=
  decodeWord 0x00E0 = .ok .cls ∧ decodeWord 0x1ABC = .ok (.jp 0xABC) ∧ decodeWord 0x2ABC = .ok (.call 0xABC) ∧
  decodeWord 0x3A42 = .ok (.seVxNn 0xA 0x42) ∧ decodeWord 0x4A42 = .ok (.sneVxNn 0xA 0x42) ∧
  decodeWord 0x5120 = .ok (.seVxVy 0x1 0x2) ∧ decodeWord 0x609D = .ok (.ldVxNn 0x0 0x9D) ∧
  decodeWord 0x70FF = .ok (.addVxNn 0x0 0xFF) ∧ decodeWord 0x8EF4 = .ok (.addVxVy 0xE 0xF) ∧
  decodeWord 0x9120 = .ok (.sneVxVy 0x1 0x2) ∧ decodeWord 0xA300 = .ok (.ldINnn 0x300) ∧
  decodeWord 0xB300 = .ok (.jpV0Nnn 0x300) ∧ decodeWord 0xC10F = .ok (.rnd 0x1 0x0F) ∧
  decodeWord 0xD125 = .ok (.drw 0x1 0x2 0x5) ∧ decodeWord 0xE3A1 = .ok (.sknp 0x3) ∧
  decodeWord 0xF265 = .ok (.ldVxMem 0x2) ∧ decodeWord 0x0123 = .error (.unrecognized 0x0123)

/-! ## Fetch, step and events -/

/-- A STEP of a running core whose fetched word decodes to `i` is `exec i` with the payload of the event, then the end
of the STEP: `cycles` counts it unless it raised a fault, and the payload is gone. A stop would stay a stop. -/
def Obligations.StepRunsTheDecodedInstruction : Prop :=
  (∀ s w i, s.fault = none → s.mem.fetch16 s.pc = .ok w → decodeWord w = .ok i →
    (s.env.schedule = [] → step s = retireOutcome (exec i (s.setRnd none))) ∧
    ∀ b es, s.env.schedule = .step b :: es →
      step s = retireOutcome (exec i ((s.setSchedule es).setRnd (some b)))) ∧
  (∀ t : State, t.fault = none →
    retireOutcome (.next t) = .next { t with cycles := t.cycles + 1, env := { t.env with rnd := none } }) ∧
  (∀ (t : State) f, t.fault = some f → retireOutcome (.next t) = .next { t with env := { t.env with rnd := none } }) ∧
  (∀ f, retireOutcome (.fault f) = .fault f) ∧ ∀ r, retireOutcome (.refused r) = .refused r

/-- The word the host places is the one the very next step, a STEP, fetches; the environment but for the schedule
stays; on a state that can fetch at its PC nothing but the two bytes, `fault` and the schedule changes (the model's
own, log 6). -/
def Obligations.PlacedWordIsFetchedNext : Prop :=
  ∀ (s : State) (nbits w : Nat),
    (s.withFetchWord nbits w).fault = none ∧ (s.withFetchWord nbits w).env = { s.env with schedule := [] } ∧
    (s.withFetchWord nbits w).mem.fetch16 (s.withFetchWord nbits w).pc = .ok (BitVec.ofNat 16 (w % 2 ^ nbits)) ∧
    (s.pc.toNat ≤ 0xFFE → (s.withFetchWord nbits w).pc = s.pc ∧
      UnchangedExcept [.mem, .fault, .env] s (s.withFetchWord nbits w) ∧
      ∀ a, a ≠ s.pc.toNat → a ≠ s.pc.toNat + 1 → (s.withFetchWord nbits w).mem.read a = s.mem.read a)

/-- R56: the fetch is big-endian, takes any PC, odd or even (the spec's decision D3), and faults when its second byte is
above 0xFFF (D4). -/
def Obligations.FetchReadsABigEndianWord : Prop :=
  ∀ (m : Memory) (pc : Word),
    (pc.toNat + 1 > 0xFFF → m.fetch16 pc = .error (.fetchOutOfRange pc)) ∧
    (pc.toNat + 1 ≤ 0xFFF → ∃ w, m.fetch16 pc = .ok w ∧
      w.toNat = (m.read pc.toNat).toNat * 256 + (m.read (pc.toNat + 1)).toNat)

/-- R57, R58: the byte primitives fault above 0xFFF (the spec's decision D4); a write changes its byte and no other,
wherever it falls. -/
def Obligations.BytePrimitivesReadAndWriteOneByte : Prop :=
  ∀ (m : Memory) (a : Nat) (v : Byte),
    (a > 0xFFF → m.memRead a = .error (.memOutOfRange a) ∧ m.memWrite a v = .error (.memOutOfRange a)) ∧
    (a ≤ 0xFFF → m.memRead a = .ok (m.read a) ∧
      ∃ m', m.memWrite a v = .ok m' ∧ m'.read a = v ∧ ∀ b, b ≠ a → m'.read b = m.read b)

/-- Equal memories are equal data: the canonical form is determined by what every address reads as. -/
def Obligations.EqualMemoriesAreEqualData : Prop :=
  ∀ m n : Memory, m.wf → n.wf → m.font = n.font → (∀ a, a ≤ 0xFFF → m.read a = n.read a) → m = n

/-- A STEP with PC at or above 0xFFF raises FetchOutOfRange(PC) and does nothing else (the spec's decisions D2, D4); it
takes its own event from the schedule, whose rest stays (the model's own, log 3: an empty schedule is a STEP), and its
payload is gone (log 2). -/
def Obligations.FetchPastTheEndHaltsTheCore : Prop :=
  ∀ s : State, s.nextIsStep → s.fault = none → 0xFFF ≤ s.pc.toNat →
    ∃ t, step s = .next t ∧ t.fault = some (.fetchOutOfRange s.pc) ∧
      t.env = { s.env with
        schedule := s.env.schedule.tail
        rnd := none
        history := .faulted (.fetchOutOfRange s.pc) :: s.env.history } ∧
      UnchangedExcept [.fault, .env] s t

/-- R87: an UNRECOGNIZED word is reported with its address (the payload is the spec's decision D22) and stepped over,
and nothing else happens. The STEP takes its own event from the schedule, whose rest stays (the model's own, log 3: an
empty schedule is a STEP), and its payload is gone (log 2). -/
def Obligations.UnrecognizedWordIsReportedAndSkipped : Prop :=
  ∀ (s : State) (w : Word), s.nextIsStep → s.fault = none → s.mem.fetch16 s.pc = .ok w →
    decodeWord w = .error (.unrecognized w) →
    ∃ t, step s = .next t ∧ t.pc = s.pc + 2 ∧ t.cycles = s.cycles + 1 ∧
      t.env = { s.env with
        schedule := s.env.schedule.tail
        rnd := none
        history := .report s.pc w :: s.env.history } ∧
      UnchangedExcept [.pc, .cycles, .env] s t

/-- R212, the spec's decision D2: in the halted state every event except INIT leaves the whole state unchanged and
produces no output; the queries answer from the frozen state; INIT clears the fault with everything else. A halted core
is safe for no number of steps. Where no event waits the next one is a STEP (the model's own, log 3); that FONT and the
environment but for the event taken pass through INIT is the model's own too (log 13). -/
def Obligations.HaltedCoreIgnoresAllButInit : Prop :=
  ∀ (s : State) (f : Fault), s.fault = some f →
    (s.env.schedule = [] → step s = .next s) ∧
    (∀ e es, s.env.schedule = e :: es → e ≠ .init → (∀ x y, e ≠ .getPixel x y) → e ≠ .isDirty →
      step s = .next (s.setSchedule es)) ∧
    (∀ x y es, s.env.schedule = .getPixel x y :: es →
      step s = .next ((s.setSchedule es).emit (.pixel (pixel s.fb x y)))) ∧
    (∀ es, s.env.schedule = .isDirty :: es → step s = .next ((s.setSchedule es).emit (.dirtyFlag s.dirty))) ∧
    (∀ es, s.env.schedule = .init :: es →
      step s = .next (State.init s.mem.font { s.env with schedule := es })) ∧
    ∀ k, ¬ SafeFor k s

/-- R213, the spec's decision D2: a STEP that raises a fault changes nothing except `fault`. It takes its own event
from the schedule, whose rest stays (the model's own, log 3: an empty schedule is a STEP), and its payload is gone
(log 2). -/
def Obligations.FaultingStepChangesOnlyFault : Prop :=
  ∀ (s t : State) (f : Fault), s.nextIsStep → s.fault = none → step s = .next t → t.fault = some f →
    UnchangedExcept [.fault, .env] s t ∧
      t.env = { s.env with
        schedule := s.env.schedule.tail
        rnd := none
        history := .faulted f :: s.env.history }

/-- The machine never stops of itself: every instruction, in every state, and every event answers a next state (a
raised fault is one, log 4). -/
def Obligations.EveryStepAnswersANextState : Prop :=
  (∀ (i : Instr) (s : State), ∃ t, exec i s = .next t) ∧ ∀ s : State, ∃ t, step s = .next t

/-- HEADLINE. Every event, whichever it is and whatever the state, keeps the invariant: the memory keeps its canonical
form with every address legal, PC stays at most 0x10FE and every stack entry at most 0x1000 (R24). -/
def Obligations.EveryStepKeepsTheInvariant : Prop :=
  ∀ s t : State, s.Inv → step s = .next t → t.Inv

/-- The state after INIT meets the invariant, for every FONT; so does the model's reset state. -/
def Obligations.ResetMeetsTheInvariant : Prop :=
  (∀ (font : Vector Byte 80) (env : Env), (State.init font env).Inv) ∧ State.reset.Inv

/-- R32, the spec's decision D20: `cycles` is incremented by one by every STEP that completes without raising a fault,
and is left by a STEP that raises one or meets a halted core; INIT sets it to 0; no other event changes it. A STEP is
also the event of an empty schedule (the model's own, log 3). -/
def Obligations.CyclesCountsCompletedSteps : Prop :=
  (∀ s t : State, s.nextIsStep → step s = .next t → s.fault = none → t.fault = none → t.cycles = s.cycles + 1) ∧
  (∀ s t : State, s.nextIsStep → step s = .next t → t.fault ≠ none → t.cycles = s.cycles) ∧
  (∀ (s t : State) es, s.env.schedule = .init :: es → step s = .next t → t.cycles = 0) ∧
  ∀ (s t : State) e es, s.env.schedule = e :: es → (∀ b, e ≠ .step b) → e ≠ .init → step s = .next t →
    t.cycles = s.cycles

/-- No instruction reads `cycles` (R32) or what the host has been told: with another counter and another history the
instruction does the same, and adds the same outputs. For CXNN without a payload this rests on equal draw counters
giving equal free bytes, which is the model's own (log 2). -/
def Obligations.NoInstructionReadsCyclesOrHistory : Prop :=
  ∀ (i : Instr) (s : State) (n : Nat) (h : List Output),
    ∃ t out, exec i s = .next t ∧ t.cycles = s.cycles ∧ t.env.history = out ++ s.env.history ∧
      exec i { s with cycles := n, env := { s.env with history := h } } =
        .next { t with cycles := n, env := { t.env with history := out ++ h } }

/-- R35, R240: INIT gives every piece of state its reset value whatever it held, FONT at 0x000..0x04F; `fault` None and
`dirty` 1 are the spec's decisions D2 and D19. That FONT and the environment, which are not state of the core, stay is
the model's own (log 13). -/
def Obligations.InitGivesEveryPieceItsResetValue : Prop :=
  ∀ (s : State) es, s.env.schedule = .init :: es →
    ∃ t, step s = .next t ∧ (∀ r, t.getV r = 0) ∧ t.i = 0 ∧ t.pc = 0x200 ∧ t.sp = 0 ∧
      (∀ j : Fin 16, t.stack[j] = 0) ∧ (∀ a : Fin 80, t.mem.read a = s.mem.font[a]) ∧
      (∀ a, 0x050 ≤ a → a ≤ 0xFFF → t.mem.read a = 0) ∧ (∀ j : Fin 256, t.fb[j] = 0) ∧ t.dirty = true ∧
      (∀ k, t.keyAt k = false) ∧ t.dt = 0 ∧ t.st = 0 ∧ t.fault = none ∧ t.cycles = 0 ∧
      t.mem.font = s.mem.font ∧ t.env = { s.env with schedule := es }

/-- R225: TICK. Both timers count down unless they are 0, BEEP on the tick that takes ST from 1 to 0 and on no other;
a halted core does nothing. -/
def Obligations.TickCountsTimersDownAndBeepsAtZero : Prop :=
  ∀ (s : State) es, s.env.schedule = .tick :: es →
    (s.fault ≠ none → step s = .next (s.setSchedule es)) ∧
    (s.fault = none →
      ∃ t, step s = .next t ∧ t.dt.toNat = s.dt.toNat - 1 ∧ t.st.toNat = s.st.toNat - 1 ∧
        t.env = { s.env with
          schedule := es
          history := if s.st.toNat = 1 then .beep :: s.env.history else s.env.history } ∧
        UnchangedExcept [.dt, .st, .env] s t)

/-- A timer loaded with v reaches 0 at the v-th following TICK and stays there; the sound timer beeps exactly once, at
that tick (R225, and R226, which the spec derives). Of the environment the k TICKs are taken from the schedule and
that BEEP is added, and nothing else changes. -/
def Obligations.TimersReachZeroAfterTheirValueInTicks : Prop :=
  ∀ (k : Nat) (s : State) es, s.fault = none → s.env.schedule = List.replicate k .tick ++ es →
    ∃ t, StepsTo k s t ∧ t.dt.toNat = s.dt.toNat - k ∧ t.st.toNat = s.st.toNat - k ∧
      t.env = { s.env with
        schedule := es
        history := if 0 < s.st.toNat ∧ s.st.toNat ≤ k then .beep :: s.env.history else s.env.history } ∧
      UnchangedExcept [.dt, .st, .env] s t

/-- R228: a key event sets one key and nothing else. -/
def Obligations.KeyEventsSetOneKey : Prop :=
  ∀ (s : State) (k : Fin 16) es, s.fault = none →
    (s.env.schedule = .keyDown k :: es →
      ∃ t, step s = .next t ∧ t.keyAt k = true ∧ (∀ j, j ≠ k → t.keyAt j = s.keyAt j) ∧
        t.env = { s.env with schedule := es } ∧ UnchangedExcept [.key, .env] s t) ∧
    (s.env.schedule = .keyUp k :: es →
      ∃ t, step s = .next t ∧ t.keyAt k = false ∧ (∀ j, j ≠ k → t.keyAt j = s.keyAt j) ∧
        t.env = { s.env with schedule := es } ∧ UnchangedExcept [.key, .env] s t)

/-- R60: LOAD writes the program at 0x200 onward and nothing else; a program of more than 0xE00 bytes changes nothing
but is answered with the capacity error. That LOAD is taken whenever `fault` is None is the spec's decision D25. -/
def Obligations.LoadWritesTheProgramOrNothing : Prop :=
  ∀ (s : State) (bytes : List Byte) es, s.fault = none → s.env.schedule = .load bytes :: es →
    (bytes.length > 0xE00 → step s = .next ((s.setSchedule es).emit .loadCapacityExceeded)) ∧
    (bytes.length ≤ 0xE00 →
      ∃ t, step s = .next t ∧ (∀ j b, bytes[j]? = some b → t.mem.read (0x200 + j) = b) ∧
        (∀ a, a < 0x200 ∨ 0x200 + bytes.length ≤ a → t.mem.read a = s.mem.read a) ∧
        t.env = { s.env with schedule := es, history := .loadOk :: s.env.history } ∧
        UnchangedExcept [.mem, .env] s t)

/-- R175, R176: the host's view. The queries answer with the pixel and the dirty flag and change nothing, also on a
halted core (R212, the spec's decision D2); SETDIRTY writes the flag and nothing else. -/
def Obligations.HostReadsPixelsAndTheDirtyFlag : Prop :=
  ∀ (s : State) es,
    (∀ x y, s.env.schedule = .getPixel x y :: es → step s = .next { s with env :=
      { s.env with schedule := es, history := .pixel (pixel s.fb x y) :: s.env.history } }) ∧
    (s.env.schedule = .isDirty :: es → step s = .next { s with env :=
      { s.env with schedule := es, history := .dirtyFlag s.dirty :: s.env.history } }) ∧
    (∀ b, s.fault = none → s.env.schedule = .setDirty b :: es →
      step s = .next { s with dirty := b, env := { s.env with schedule := es } })

/-! ## Rules about all instructions -/

/-- What no instruction that raises no fault changes: a piece of state outside the effects its rule lists (R13, the
spec's decision D10). Read per piece: I changes only by ANNN, FX1E, FX29 (R23); SP and the stack only by 2NNN and 00EE
(R25, R26); memory only by FX33 and FX55 (R51); the framebuffer and the dirty flag only by 00E0 and DXYN (R29, R30); DT
and ST only by FX15 and FX18 (R27); a key, the fault register and `cycles` by none (R28, R31). -/
def Obligations.InstructionsChangeOnlyTheirEffects : Prop :=
  ∀ (i : Instr) (s t : State), s.fault = none → exec i s = .next t → t.fault = none → UnchangedExcept (effectsOf i) s t

/-- A register that is neither the destination (V0..VX for FX65, R155) nor VF in one of the seven instructions that
write it as a side effect (R22) is unchanged. For VF that is R22; for every other register it is the frame rule R13, the
spec's decision D10; for an execution that raises a fault it is R213, the spec's decision D2 (log 10). -/
def Obligations.RegistersChangeOnlyAsDestinationOrFlag : Prop :=
  ∀ (i : Instr) (s t : State) (r : Reg), exec i s = .next t → ¬ writesReg i r → t.getV r = s.getV r

/-- R211, the spec's decisions D2 and D4 to D7: the five faults, their codes and recorded values: the fetch fault of a
STEP, and the faults of the instructions with exactly these conditions; there is no other. A STEP is also the event of
an empty schedule (the model's own, log 3). -/
def Obligations.FaultsAreRaisedExactlyAsListed : Prop :=
  (∀ (i : Instr) (s t : State), s.fault = none → exec i s = .next t → t.fault = faultOf i s) ∧
  (∀ s t : State, s.nextIsStep → s.fault = none → step s = .next t →
    (t.fault = some (.fetchOutOfRange s.pc) ↔ s.pc.toNat + 1 > 0xFFF)) ∧
  (∀ (pc : Word) (a : Nat) (vx : Byte),
    (Fault.fetchOutOfRange pc).code = 1 ∧ (Fault.fetchOutOfRange pc).value = pc.toNat ∧
    (Fault.memOutOfRange a).code = 2 ∧ (Fault.memOutOfRange a).value = a ∧
    (Fault.stackOverflow pc).code = 3 ∧ (Fault.stackOverflow pc).value = pc.toNat ∧
    (Fault.stackUnderflow pc).code = 4 ∧ (Fault.stackUnderflow pc).value = pc.toNat ∧
    (Fault.keyIndexOutOfRange vx).code = 5 ∧ (Fault.keyIndexOutOfRange vx).value = vx.toNat)

/-- The ways PC is written by an instruction that raises no fault (R24): PC + 2, PC + 4 by a taken skip, NNN,
NNN + V0 (reduced to no width: the spec's decision D12), the popped stack entry, and unchanged by FX0A while no key is
down. -/
def Obligations.NextPcIsOneOfTheListedWays : Prop :=
  ∀ (i : Instr) (s t : State), s.fault = none → exec i s = .next t → t.fault = none →
    match i with
    | .jp nnn | .call nnn => t.pc.toNat = nnn.toNat
    | .jpV0Nnn nnn => t.pc.toNat = nnn.toNat + (s.getV 0).toNat
    | .ret => ∃ j : Fin 16, j.val + 1 = s.sp.val ∧ t.pc = s.stack[j]
    | .seVxNn _ _ | .sneVxNn _ _ | .seVxVy _ _ | .sneVxVy _ _ | .skp _ | .sknp _ =>
      t.pc = s.pc + 2 ∨ t.pc = s.pc + 4
    | .ldVxK _ => t.pc = if s.lowestKey = none then s.pc else s.pc + 2
    | _ => t.pc = s.pc + 2

/-- A running core at a jump to itself, with no event but STEPs to come, is safe for every number of steps: the
model's own end of a run (R111, R243). Where the schedule runs out the next event is a STEP (the model's own, log 3). -/
def Obligations.SelfJumpIsSafeForever : Prop :=
  ∀ (k : Nat) (s : State), s.fault = none → s.atSelfJump → (∀ e ∈ s.env.schedule, ∃ b, e = .step b) → SafeFor k s

/-! ## Control flow -/

/-- R110: 00EE; the fault of an empty stack is the spec's decision D6. -/
def Obligations.ReturnPopsTheReturnAddress : Prop :=
  ∀ s : State,
    (∀ j : Fin 16, j.val + 1 = s.sp.val →
      ∃ t, exec .ret s = .next t ∧ t.sp.val = j.val ∧ t.pc = s.stack[j] ∧ UnchangedExcept [.sp, .pc] s t) ∧
    (s.sp.val = 0 → ∃ t, exec .ret s = .next t ∧ RaisesOnly s t (.stackUnderflow s.pc))

/-- R111: 1NNN; that nothing else changes is the frame rule R13, the spec's decision D10. -/
def Obligations.JumpSetsPcToTheImmediate : Prop :=
  ∀ (s : State) (nnn : Imm12),
    ∃ t, exec (.jp nnn) s = .next t ∧ t.pc.toNat = nnn.toNat ∧ UnchangedExcept [.pc] s t

/-- R112: 2NNN; the fault of the 17th nested call is the spec's decision D5. -/
def Obligations.CallPushesTheReturnAddress : Prop :=
  ∀ (s : State) (nnn : Imm12),
    (s.sp.val < 16 →
      ∃ t, exec (.call nnn) s = .next t ∧ t.sp.val = s.sp.val + 1 ∧ t.pc.toNat = nnn.toNat ∧
        (∀ j : Fin 16, t.stack[j] = if j.val = s.sp.val then s.pc + 2 else s.stack[j]) ∧
        UnchangedExcept [.sp, .stack, .pc] s t) ∧
    (s.sp.val = 16 → ∃ t, exec (.call nnn) s = .next t ∧ RaisesOnly s t (.stackOverflow s.pc))

/-- A call and the return from it come back to the instruction after the call with the same depth (R110, R112). -/
def Obligations.CallThenReturnComesBack : Prop :=
  ∀ (s : State) (nnn : Imm12), s.sp.val < 16 →
    ∃ t u, exec (.call nnn) s = .next t ∧ exec .ret t = .next u ∧ u.pc = s.pc + 2 ∧ u.sp = s.sp ∧
      UnchangedExcept [.stack, .pc] s u ∧ ∀ j : Fin 16, j.val ≠ s.sp.val → u.stack[j] = s.stack[j]

/-- R113: BNNN, a sum that is reduced to no width (the spec's decision D12). -/
def Obligations.JumpV0AddsV0ToTheImmediate : Prop :=
  ∀ (s : State) (nnn : Imm12),
    ∃ t, exec (.jpV0Nnn nnn) s = .next t ∧ t.pc.toNat = nnn.toNat + (s.getV 0).toNat ∧ UnchangedExcept [.pc] s t

/-- R114 to R117: the four skips on registers; that nothing else changes is the frame rule R13, the spec's decision
D10. -/
def Obligations.SkipsCompareRegisters : Prop :=
  ∀ (s : State) (x y : Reg) (nn : Byte),
    (∃ t, exec (.seVxNn x nn) s = .next t ∧ t.pc = (if s.getV x = nn then s.pc + 4 else s.pc + 2) ∧
      UnchangedExcept [.pc] s t) ∧
    (∃ t, exec (.sneVxNn x nn) s = .next t ∧ t.pc = (if s.getV x ≠ nn then s.pc + 4 else s.pc + 2) ∧
      UnchangedExcept [.pc] s t) ∧
    (∃ t, exec (.seVxVy x y) s = .next t ∧ t.pc = (if s.getV x = s.getV y then s.pc + 4 else s.pc + 2) ∧
      UnchangedExcept [.pc] s t) ∧
    (∃ t, exec (.sneVxVy x y) s = .next t ∧ t.pc = (if s.getV x ≠ s.getV y then s.pc + 4 else s.pc + 2) ∧
      UnchangedExcept [.pc] s t)

/-! ## Loads and arithmetic -/

/-- R130 to R132: 6XNN, 7XNN (modulo 256, no flag) and 8XY0; that nothing else changes is the frame rule R13, the spec's
decision D10. -/
def Obligations.LoadsAndAddImmediateWriteOneRegister : Prop :=
  ∀ (s : State) (x y : Reg) (nn : Byte),
    (∃ t, exec (.ldVxNn x nn) s = .next t ∧ WritesOneRegister s t x nn) ∧
    (∃ t b, exec (.addVxNn x nn) s = .next t ∧ b.toNat = ((s.getV x).toNat + nn.toNat) % 256 ∧
      WritesOneRegister s t x b) ∧
    (∃ t, exec (.ldVxVy x y) s = .next t ∧ WritesOneRegister s t x (s.getV y))

/-- R133 to R135: the logical operations, bit by bit; that VF and everything else is unchanged is the frame rule R13,
the spec's decision D10. -/
def Obligations.LogicalOperationsAreBitwise : Prop :=
  ∀ (s : State) (x y : Reg),
    (∃ t b, exec (.or x y) s = .next t ∧ WritesOneRegister s t x b ∧
      ∀ k, b.getLsbD k = ((s.getV x).getLsbD k || (s.getV y).getLsbD k)) ∧
    (∃ t b, exec (.and x y) s = .next t ∧ WritesOneRegister s t x b ∧
      ∀ k, b.getLsbD k = ((s.getV x).getLsbD k && (s.getV y).getLsbD k)) ∧
    (∃ t b, exec (.xor x y) s = .next t ∧ WritesOneRegister s t x b ∧
      ∀ k, b.getLsbD k = ((s.getV x).getLsbD k ^^ (s.getV y).getLsbD k))

/-- R136: 8XY4, with every case of X or Y equal to F. Those cases are R142, which the spec derives, from
the order of effects of R12, the spec's decision D9 (log 10, unsafe); the frame is R13, D10. -/
def Obligations.AddWritesCarryThenSum : Prop :=
  ∀ (s : State) (x y : Reg), ∃ t, exec (.addVxVy x y) s = .next t ∧
    WritesFlagThenResult s t x y (fun a b => if a + b > 255 then 1 else 0) (fun a b => (a + b) % 256)

/-- R137: 8XY5, with every case of X or Y equal to F. Those cases are R142, which the spec derives, from
the order of effects of R12, the spec's decision D9 (log 10, unsafe); the frame is R13, D10. -/
def Obligations.SubWritesFlagThenDifference : Prop :=
  ∀ (s : State) (x y : Reg), ∃ t, exec (.sub x y) s = .next t ∧
    WritesFlagThenResult s t x y (fun a b => if a ≤ b then 0 else 1) (fun a b => (a + 256 - b) % 256)

/-- R139: 8XY7, the same test as 8XY5 (the spec's choice in conflict C3) and the difference the other way round, with
every case of X or Y equal to F. Those cases are R142, which the spec derives, from the order of effects of R12, the
spec's decision D9 (log 10, unsafe); the frame is R13, D10. -/
def Obligations.SubnWritesFlagThenReverseDifference : Prop :=
  ∀ (s : State) (x y : Reg), ∃ t, exec (.subn x y) s = .next t ∧
    WritesFlagThenResult s t x y (fun a b => if a ≤ b then 0 else 1) (fun a b => (b + 256 - a) % 256)

/-- R138, R140: 8XY6 and 8XYE shift VX in place; Y is ignored, so the result is the same for every Y. The final VF where
X is F is R142, which the spec derives, from the order of effects of R12, the spec's decision D9 (log 10, unsafe); the
frame is R13, D10. -/
def Obligations.ShiftsWriteTheBitThenTheShift : Prop :=
  ∀ (s : State) (x y : Reg),
    (∃ t, exec (.shr x y) s = .next t ∧ (∀ z, exec (.shr x z) s = .next t) ∧
      (t.getV vF).toNat = (if x = vF then 0 else (s.getV x).toNat % 2) ∧
      (x ≠ vF → (t.getV x).toNat = (s.getV x).toNat / 2) ∧
      (∀ r, r ≠ x → r ≠ vF → t.getV r = s.getV r) ∧ t.pc = s.pc + 2 ∧ UnchangedExcept [.v, .pc] s t) ∧
    (∃ t, exec (.shl x y) s = .next t ∧ (∀ z, exec (.shl x z) s = .next t) ∧
      (t.getV vF).toNat = (if x = vF then 2 * ((s.getV x).toNat / 128) else (s.getV x).toNat / 128) ∧
      (x ≠ vF → (t.getV x).toNat = 2 * (s.getV x).toNat % 256) ∧
      (∀ r, r ≠ x → r ≠ vF → t.getV r = s.getV r) ∧ t.pc = s.pc + 2 ∧ UnchangedExcept [.v, .pc] s t)

/-! ## Index and memory -/

/-- R150, R152: ANNN, and FX29 with VX not reduced; that nothing else changes is the frame rule R13, the spec's decision
D10. -/
def Obligations.LoadIndexSetsI : Prop :=
  ∀ (s : State) (x : Reg) (nnn : Imm12),
    (∃ t, exec (.ldINnn nnn) s = .next t ∧ t.i.toNat = nnn.toNat ∧ t.pc = s.pc + 2 ∧ UnchangedExcept [.i, .pc] s t) ∧
    (∃ t, exec (.ldFVx x) s = .next t ∧ t.i.toNat = 5 * (s.getV x).toNat ∧ t.pc = s.pc + 2 ∧
      UnchangedExcept [.i, .pc] s t)

/-- R151: FX1E, I first and VF second, also where X is F; that the flag tests the new 16-bit I is the spec's decision
D11. -/
def Obligations.AddIndexWritesIThenFlag : Prop :=
  ∀ (s : State) (x : Reg),
    ∃ t, exec (.addIVx x) s = .next t ∧ t.i.toNat = (s.i.toNat + (s.getV x).toNat) % 65536 ∧
      (t.getV vF).toNat = (if t.i.toNat > 0xFFF then 1 else 0) ∧ (∀ r, r ≠ vF → t.getV r = s.getV r) ∧
      t.pc = s.pc + 2 ∧ UnchangedExcept [.i, .v, .pc] s t

/-- R153: FX33. The stored bytes are those at I, I + 1, I + 2; every other byte reads as before. The fault, its recorded
value and all or nothing are R211 and R213, the spec's decisions D4 and D2; that a store into the font happens is D17;
the frame is R13, D10 (log 10). -/
def Obligations.BcdStoresThreeDigits : Prop :=
  ∀ (s : State) (x : Reg),
    (s.i.toNat + 2 ≤ 0xFFF →
      ∃ t, exec (.ldBVx x) s = .next t ∧
        (t.mem.read (s.dataAddress 0)).toNat = (s.getV x).toNat / 100 ∧
        (t.mem.read (s.dataAddress 1)).toNat = (s.getV x).toNat / 10 % 10 ∧
        (t.mem.read (s.dataAddress 2)).toNat = (s.getV x).toNat % 10 ∧
        (∀ a, a < s.dataAddress 0 ∨ s.dataAddress 2 < a → t.mem.read a = s.mem.read a) ∧
        t.pc = s.pc + 2 ∧ UnchangedExcept [.mem, .pc] s t) ∧
    (s.i.toNat + 2 > 0xFFF →
      ∃ t, exec (.ldBVx x) s = .next t ∧ RaisesOnly s t (.memOutOfRange (max s.i.toNat 0x1000)))

/-- R154: FX55. V0..VX go to I..I + X; every other byte reads as before. The fault, its recorded value and all or
nothing are R211 and R213, the spec's decisions D4 and D2; that a store into the font happens is D17; that I is
unchanged is R156, which the spec derives, and the frame rule R13, D10 (log 10). -/
def Obligations.StoreRegistersWritesTheRange : Prop :=
  ∀ (s : State) (x : Reg),
    (s.i.toNat + x.toNat ≤ 0xFFF →
      ∃ t, exec (.ldMemVx x) s = .next t ∧
        (∀ r : Reg, r.toNat ≤ x.toNat → t.mem.read (s.dataAddress r.toNat) = s.getV r) ∧
        (∀ a, a < s.dataAddress 0 ∨ s.dataAddress x.toNat < a → t.mem.read a = s.mem.read a) ∧
        t.pc = s.pc + 2 ∧ UnchangedExcept [.mem, .pc] s t) ∧
    (s.i.toNat + x.toNat > 0xFFF →
      ∃ t, exec (.ldMemVx x) s = .next t ∧ RaisesOnly s t (.memOutOfRange (max s.i.toNat 0x1000)))

/-- R155: FX65. I..I + X go to V0..VX; memory is unchanged. The fault, its recorded value and all or nothing are R211
and R213, the spec's decisions D4 and D2; that I is unchanged is R156, which the spec derives, and the frame rule R13,
D10 (log 10). -/
def Obligations.LoadRegistersReadsTheRange : Prop :=
  ∀ (s : State) (x : Reg),
    (s.i.toNat + x.toNat ≤ 0xFFF →
      ∃ t, exec (.ldVxMem x) s = .next t ∧
        (∀ r : Reg, r.toNat ≤ x.toNat → t.getV r = s.mem.read (s.dataAddress r.toNat)) ∧
        (∀ r : Reg, x.toNat < r.toNat → t.getV r = s.getV r) ∧
        t.pc = s.pc + 2 ∧ UnchangedExcept [.v, .pc] s t) ∧
    (s.i.toNat + x.toNat > 0xFFF →
      ∃ t, exec (.ldVxMem x) s = .next t ∧ RaisesOnly s t (.memOutOfRange (max s.i.toNat 0x1000)))

/-- R65, which the spec derives: a store into the instruction stream is seen by the next fetch. After FX33, and after
FX55 for every X, the word fetched at every address that can be fetched is made of the stored bytes where it overlaps
them and of the bytes that were there where it does not. -/
def Obligations.StoredBytesAreFetchedNext : Prop :=
  ∀ (s : State) (x : Reg),
    (s.i.toNat + 2 ≤ 0xFFF →
      ∃ t, exec (.ldBVx x) s = .next t ∧ ∀ p : Word, p.toNat ≤ 0xFFE →
        let after := s.storedOver 3 fun k => BitVec.ofNat 8 ((s.getV x).toNat / 10 ^ (2 - k) % 10)
        t.mem.fetch16 p = .ok (wordOfBytes (after p.toNat) (after (p.toNat + 1)))) ∧
    (s.i.toNat + x.toNat ≤ 0xFFF →
      ∃ t, exec (.ldMemVx x) s = .next t ∧ ∀ p : Word, p.toNat ≤ 0xFFE →
        let after := s.storedOver (x.toNat + 1) fun k => s.getV (BitVec.ofNat 4 k)
        t.mem.fetch16 p = .ok (wordOfBytes (after p.toNat) (after (p.toNat + 1))))

/-! ## Graphics -/

/-- R170: 00E0; that nothing else changes, VF included, is the frame rule R13, the spec's decision D10. -/
def Obligations.ClearBlanksTheScreen : Prop :=
  ∀ s : State, ∃ t, exec .cls s = .next t ∧ (∀ j : Fin 256, t.fb[j] = 0) ∧
    (∀ x y, x < 64 → y < 32 → pixel t.fb x y = false) ∧ t.dirty = true ∧ t.pc = s.pc + 2 ∧
    UnchangedExcept [.fb, .dirty, .pc] s t

/-- R171. DXYN with its sprite in memory: exactly the on-screen pixels the sprite covers are toggled, VF is 1 exactly
when one of them was set before, the frame holds, N = 0 draws nothing; with a sprite row past 0xFFF it faults and does
nothing else. The coordinates are VX and VY unreduced, and X or Y may be F. The spec's own decisions in it (log 10):
the fault, R211 and R213 (D4, D2); the bit order of a row, R172 (D31); VX of 64 or more, R174 (D14); VF written last,
R12 (D9); the frame, R13 (D10). That the collision test is against the framebuffer before the instruction is R173,
which the spec derives. -/
def Obligations.DrawTogglesTheCoveredPixels : Prop :=
  ∀ (s : State) (x y : Reg) (n : BitVec 4),
    (n.toNat = 0 ∨ s.i.toNat + n.toNat - 1 ≤ 0xFFF →
      ∃ t, exec (.drw x y n) s = .next t ∧
        (∀ px py, px < 64 → py < 32 → (pixel t.fb px py ≠ pixel s.fb px py ↔
          s.spriteCovers (s.getV x).toNat (s.getV y).toNat n.toNat px py)) ∧
        (t.getV vF = 1 ↔ ∃ px py, px < 64 ∧ py < 32 ∧
          s.spriteCovers (s.getV x).toNat (s.getV y).toNat n.toNat px py ∧ pixel s.fb px py = true) ∧
        (t.getV vF = 0 ∨ t.getV vF = 1) ∧ (∀ r, r ≠ vF → t.getV r = s.getV r) ∧
        t.dirty = true ∧ t.pc = s.pc + 2 ∧ UnchangedExcept [.fb, .dirty, .v, .pc] s t) ∧
    (0 < n.toNat → s.i.toNat + n.toNat - 1 > 0xFFF →
      ∃ t, exec (.drw x y n) s = .next t ∧ RaisesOnly s t (.memOutOfRange (max s.i.toNat 0x1000)))

/-- R172, the spec's decision D31: for x0 in 0..63 the pixel loop of one row equals the byte-level form. -/
def Obligations.DrawRowEqualsTheByteLevelForm : Prop :=
  ∀ (b : Byte) (x0 yy : Nat) (p : Blit), x0 ≤ 63 → yy < 32 → ∀ j : Fin 256,
    (drawRow b x0 yy p).1[j] =
      if j.val = x0 / 8 + yy * 8 then p.1[j] ^^^ (b >>> (x0 % 8))
      else if 0 < x0 % 8 ∧ x0 / 8 < 7 ∧ j.val = x0 / 8 + yy * 8 + 1 then p.1[j] ^^^ (b <<< (8 - x0 % 8))
      else p.1[j]

/-- A sprite at VX of 64 or more vanishes: nothing is drawn and VF = 0 (R174, the spec's decision D14), but its bytes
are still read: with a sprite row past 0xFFF it faults and does nothing else (R171, and R211 and R213, the spec's
decisions D4 and D2, log 10). -/
def Obligations.SpriteRightOfTheScreenVanishes : Prop :=
  ∀ (s : State) (x y : Reg) (n : BitVec 4), 64 ≤ (s.getV x).toNat →
    (n.toNat = 0 ∨ s.i.toNat + n.toNat - 1 ≤ 0xFFF →
      ∃ t, exec (.drw x y n) s = .next t ∧ t.fb = s.fb ∧ t.getV vF = 0 ∧ t.dirty = true ∧ t.pc = s.pc + 2) ∧
    (0 < n.toNat → s.i.toNat + n.toNat - 1 > 0xFFF →
      ∃ t, exec (.drw x y n) s = .next t ∧ RaisesOnly s t (.memOutOfRange (max s.i.toNat 0x1000)))

/-- The same sprite drawn twice at the same place restores the framebuffer (the source's example S4): X and Y are not
F, so the coordinates are the same. -/
def Obligations.DrawingTwiceRestoresTheScreen : Prop :=
  ∀ (s : State) (x y : Reg) (n : BitVec 4), x ≠ vF → y ≠ vF → n.toNat = 0 ∨ s.i.toNat + n.toNat - 1 ≤ 0xFFF →
    ∃ t u, exec (.drw x y n) s = .next t ∧ exec (.drw x y n) t = .next u ∧ u.fb = s.fb

/-! ## Random, keypad, timers -/

/-- R190: CXNN, for every random byte (a free draw: the spec's decision D15): the payload of the STEP where the event
carries one, some byte otherwise, and the next draw is a fresh one (the model's own, log 2). -/
def Obligations.RandomIsMaskedByTheImmediate : Prop :=
  ∀ (s : State) (x : Reg) (nn : Byte),
    ∃ t b, exec (.rnd x nn) s = .next t ∧ (∀ r, s.env.rnd = some r → b = r) ∧ t.getV x = b &&& nn ∧
      (∀ r, r ≠ x → t.getV r = s.getV r) ∧ t.pc = s.pc + 2 ∧
      t.env = { s.env with draws := s.env.draws + 1 } ∧ UnchangedExcept [.v, .pc, .env] s t

/-- R191, R192: EX9E and EXA1; the fault of a value above 15 is the spec's decision D7. -/
def Obligations.KeySkipsTestTheKeyLevel : Prop :=
  ∀ (s : State) (x : Reg),
    (∀ k : Fin 16, (s.getV x).toNat = k.val →
      (∃ t, exec (.skp x) s = .next t ∧ t.pc = (if s.keyAt k = true then s.pc + 4 else s.pc + 2) ∧
        UnchangedExcept [.pc] s t) ∧
      (∃ t, exec (.sknp x) s = .next t ∧ t.pc = (if s.keyAt k = false then s.pc + 4 else s.pc + 2) ∧
        UnchangedExcept [.pc] s t)) ∧
    (15 < (s.getV x).toNat →
      (∃ t, exec (.skp x) s = .next t ∧ RaisesOnly s t (.keyIndexOutOfRange (s.getV x))) ∧
      (∃ t, exec (.sknp x) s = .next t ∧ RaisesOnly s t (.keyIndexOutOfRange (s.getV x))))

/-- R194: FX0A. With no key down nothing at all changes; else VX is the least down key, and that nothing else changes is
the frame rule R13, the spec's decision D10. -/
def Obligations.KeyAwaitTakesTheLowestKeyOrWaits : Prop :=
  ∀ (s : State) (x : Reg),
    ((∀ k, s.keyAt k = false) → exec (.ldVxK x) s = .next s) ∧
    (∀ k, s.keyAt k = true → (∀ j, j < k → s.keyAt j = false) →
      ∃ t b, exec (.ldVxK x) s = .next t ∧ b.toNat = k.val ∧ WritesOneRegister s t x b)

/-- A core waiting at FX0A stays at that PC for every number of STEPs while no key event comes, changing nothing but
`cycles`, and completes at the STEP after a KEYDOWN (R194, R252), which changes VX, PC, the one key and `cycles` and
nothing else (R13, the spec's decision D10). The events are taken from the schedule and the payload of a completed STEP
is gone (the model's own, log 2, 3). -/
def Obligations.WaitEndsAtTheNextKeyDown : Prop :=
  ∀ (s : State) (w : Word) (x : Reg) (k : Fin 16) (n : Nat) (bs : List Byte) (b : Byte) es, s.fault = none →
    s.mem.fetch16 s.pc = .ok w → decodeWord w = .ok (.ldVxK x) → (∀ j, s.keyAt j = false) → bs.length = n →
    s.env.schedule = bs.map Event.step ++ .keyDown k :: .step b :: es →
    (∃ t, StepsTo n s t ∧ t.cycles = s.cycles + n ∧
      t.env = { s.env with
        schedule := .keyDown k :: .step b :: es
        rnd := if n = 0 then s.env.rnd else none } ∧
      UnchangedExcept [.cycles, .env] s t) ∧
    (∃ t, StepsTo (n + 2) s t ∧ (t.getV x).toNat = k.val ∧ (∀ r, r ≠ x → t.getV r = s.getV r) ∧ t.pc = s.pc + 2 ∧
      t.keyAt k = true ∧ (∀ j, j ≠ k → t.keyAt j = s.keyAt j) ∧ t.cycles = s.cycles + n + 1 ∧
      t.env = { s.env with schedule := es, rnd := none } ∧ UnchangedExcept [.v, .pc, .key, .cycles, .env] s t)

/-- R193, R195, and FX18 (R196), which emits no BEEP, whatever the values (the spec's decision D18); that nothing else
changes is the frame rule R13, D10 (log 10). -/
def Obligations.TimerInstructionsMoveOneByte : Prop :=
  ∀ (s : State) (x : Reg),
    (∃ t, exec (.ldVxDt x) s = .next t ∧ WritesOneRegister s t x s.dt) ∧
    (∃ t, exec (.ldDtVx x) s = .next t ∧ t.dt = s.getV x ∧ t.pc = s.pc + 2 ∧ UnchangedExcept [.dt, .pc] s t) ∧
    (∃ t, exec (.ldStVx x) s = .next t ∧ t.st = s.getV x ∧ t.pc = s.pc + 2 ∧ UnchangedExcept [.st, .pc] s t)

/-! ## The parameter FONT -/

/-- FONT is a parameter of the run and not state of the core (R7, R9): no event changes it, no instruction, and not the
placing of a word, so the next INIT rewrites the font that the last one wrote, whatever a program stored over it (R53,
the spec's decision D17). That FONT passes through INIT is the model's own (log 13), and so is the placing (log 6). -/
def Obligations.NothingChangesTheParameterFont : Prop :=
  (∀ s t : State, step s = .next t → t.mem.font = s.mem.font) ∧
  (∀ (i : Instr) (s t : State), exec i s = .next t → t.mem.font = s.mem.font) ∧
  ∀ (s : State) (nbits w : Nat), (s.withFetchWord nbits w).mem.font = s.mem.font
end

