-- ==== Sys2Proof/Laws/Decode.lean ====
section
/-! SUPPORT. The fields of a word and the words of the formats as numbers (30_encoding.md R81, R82), and from them:
the fields of the words the formats build, and the word its fields build. -/

namespace Sys2Proof

/-! ### As numbers -/

theorem append_toNat {m n : Nat} (a : BitVec m) (b : BitVec n) : (a ++ b).toNat = a.toNat * 2 ^ n + b.toNat := by
  rw [BitVec.toNat_append, Nat.shiftLeft_eq, Nat.mul_comm, ← Nat.two_pow_add_eq_or_of_lt b.isLt]

theorem fieldFamily_toNat (w : Word) : (fieldFamily w).toNat = w.toNat / 4096 := by
  have := w.isLt
  simp only [fieldFamily, BitVec.extractLsb'_toNat, Nat.shiftRight_eq_div_pow]
  omega
theorem fieldX_toNat (w : Word) : (fieldX w).toNat = w.toNat / 256 % 16 := by
  simp [fieldX, BitVec.extractLsb'_toNat, Nat.shiftRight_eq_div_pow]
theorem fieldY_toNat (w : Word) : (fieldY w).toNat = w.toNat / 16 % 16 := by
  simp [fieldY, BitVec.extractLsb'_toNat, Nat.shiftRight_eq_div_pow]
theorem fieldN_toNat (w : Word) : (fieldN w).toNat = w.toNat % 16 := by
  simp [fieldN, BitVec.extractLsb'_toNat]
theorem fieldNN_toNat (w : Word) : (fieldNN w).toNat = w.toNat % 256 := by
  simp [fieldNN, BitVec.extractLsb'_toNat]
theorem fieldNNN_toNat (w : Word) : (fieldNNN w).toNat = w.toNat % 4096 := by
  simp [fieldNNN, BitVec.extractLsb'_toNat]

theorem formatA_toNat (f : BitVec 4) (nnn : Imm12) : (formatA f nnn).toNat = f.toNat * 4096 + nnn.toNat :=
  append_toNat f nnn
theorem formatRI_toNat (f : BitVec 4) (x : Reg) (nn : Byte) :
    (formatRI f x nn).toNat = f.toNat * 4096 + x.toNat * 256 + nn.toNat := by
  rw [formatRI, append_toNat (m := 8) (n := 8), append_toNat (m := 4) (n := 4)]
  simp only [Nat.reducePow]; omega
theorem formatR_toNat (f : BitVec 4) (x : Reg) (s : Byte) :
    (formatR f x s).toNat = f.toNat * 4096 + x.toNat * 256 + s.toNat := formatRI_toNat f x s
theorem formatRR_toNat (f : BitVec 4) (x y : Reg) (n : BitVec 4) :
    (formatRR f x y n).toNat = f.toNat * 4096 + x.toNat * 256 + y.toNat * 16 + n.toNat := by
  rw [formatRR, append_toNat (m := 8) (n := 8), append_toNat (m := 4) (n := 4), append_toNat (m := 4) (n := 4)]
  simp only [Nat.reducePow]; omega

/-! ### The fields of a format -/

section fields
variable (f : BitVec 4) (x y : Reg) (n : BitVec 4) (nn : Byte) (nnn : Imm12)

@[simp] theorem fieldFamily_formatA : fieldFamily (formatA f nnn) = f := by
  have := nnn.isLt
  apply BitVec.eq_of_toNat_eq; rw [fieldFamily_toNat, formatA_toNat]; omega
@[simp] theorem fieldNNN_formatA : fieldNNN (formatA f nnn) = nnn := by
  have := nnn.isLt
  apply BitVec.eq_of_toNat_eq; rw [fieldNNN_toNat, formatA_toNat]; omega
@[simp] theorem fieldFamily_formatRI : fieldFamily (formatRI f x nn) = f := by
  have := nn.isLt; have := x.isLt
  apply BitVec.eq_of_toNat_eq; rw [fieldFamily_toNat, formatRI_toNat]; omega
@[simp] theorem fieldX_formatRI : fieldX (formatRI f x nn) = x := by
  have := nn.isLt; have := x.isLt
  apply BitVec.eq_of_toNat_eq; rw [fieldX_toNat, formatRI_toNat]; omega
@[simp] theorem fieldNN_formatRI : fieldNN (formatRI f x nn) = nn := by
  have := nn.isLt; have := x.isLt
  apply BitVec.eq_of_toNat_eq; rw [fieldNN_toNat, formatRI_toNat]; omega
@[simp] theorem fieldFamily_formatR : fieldFamily (formatR f x nn) = f := fieldFamily_formatRI f x nn
@[simp] theorem fieldX_formatR : fieldX (formatR f x nn) = x := fieldX_formatRI f x nn
@[simp] theorem fieldNN_formatR : fieldNN (formatR f x nn) = nn := fieldNN_formatRI f x nn
@[simp] theorem fieldFamily_formatRR : fieldFamily (formatRR f x y n) = f := by
  have := n.isLt; have := y.isLt; have := x.isLt
  apply BitVec.eq_of_toNat_eq; rw [fieldFamily_toNat, formatRR_toNat]; omega
@[simp] theorem fieldX_formatRR : fieldX (formatRR f x y n) = x := by
  have := n.isLt; have := y.isLt; have := x.isLt
  apply BitVec.eq_of_toNat_eq; rw [fieldX_toNat, formatRR_toNat]; omega
@[simp] theorem fieldY_formatRR : fieldY (formatRR f x y n) = y := by
  have := n.isLt; have := y.isLt; have := x.isLt
  apply BitVec.eq_of_toNat_eq; rw [fieldY_toNat, formatRR_toNat]; omega
@[simp] theorem fieldN_formatRR : fieldN (formatRR f x y n) = n := by
  have := n.isLt; have := y.isLt; have := x.isLt
  apply BitVec.eq_of_toNat_eq; rw [fieldN_toNat, formatRR_toNat]; omega

end fields

/-! ### A word is what its fields build -/

theorem formatA_fields (w : Word) : formatA (fieldFamily w) (fieldNNN w) = w := by
  apply BitVec.eq_of_toNat_eq; rw [formatA_toNat, fieldFamily_toNat, fieldNNN_toNat]; omega
theorem formatRI_fields (w : Word) : formatRI (fieldFamily w) (fieldX w) (fieldNN w) = w := by
  apply BitVec.eq_of_toNat_eq; rw [formatRI_toNat, fieldFamily_toNat, fieldX_toNat, fieldNN_toNat]; omega
theorem formatR_fields (w : Word) : formatR (fieldFamily w) (fieldX w) (fieldNN w) = w := formatRI_fields w
theorem formatRR_fields (w : Word) : formatRR (fieldFamily w) (fieldX w) (fieldY w) (fieldN w) = w := by
  apply BitVec.eq_of_toNat_eq
  rw [formatRR_toNat, fieldFamily_toNat, fieldX_toNat, fieldY_toNat, fieldN_toNat]; omega

/-! ### The literal bits of a format -/

theorem append_and {m n : Nat} (a c : BitVec m) (b d : BitVec n) : (a ++ b) &&& (c ++ d) = (a &&& c) ++ (b &&& d) :=
  BitVec.and_append

theorem and_F (a : BitVec 4) : a &&& 0xF#4 = a := BitVec.and_allOnes
theorem and_FF (a : Byte) : a &&& 0xFF#8 = a := BitVec.and_allOnes

theorem formatA_mask (f : BitVec 4) (nnn : Imm12) : formatA f nnn &&& 0xF000#16 = formatA f 0 := by
  refine (append_and f 0xF#4 nnn 0#12).trans ?_
  rw [and_F, BitVec.and_zero]; rfl

theorem formatRI_mask (f : BitVec 4) (x : Reg) (nn : Byte) : formatRI f x nn &&& 0xF000#16 = formatRI f 0 0 := by
  refine (append_and (f ++ x : Byte) (0xF#4 ++ 0#4 : Byte) nn 0#8).trans ?_
  rw [append_and, and_F, BitVec.and_zero, BitVec.and_zero]; rfl

theorem formatR_mask (f : BitVec 4) (x : Reg) (s : Byte) : formatR f x s &&& 0xF0FF#16 = formatR f 0 s := by
  refine (append_and (f ++ x : Byte) (0xF#4 ++ 0#4 : Byte) s 0xFF#8).trans ?_
  rw [append_and, and_F, BitVec.and_zero, and_FF]; rfl

theorem formatRR_mask (f : BitVec 4) (x y : Reg) (n : BitVec 4) :
    formatRR f x y n &&& 0xF00F#16 = formatRR f 0 0 n := by
  refine (append_and (f ++ x : Byte) (0xF#4 ++ 0#4 : Byte) (y ++ n : Byte) (0#4 ++ 0xF#4 : Byte)).trans ?_
  rw [append_and, append_and, and_F, BitVec.and_zero, BitVec.and_zero, and_F]; rfl

theorem formatRRN_mask (f : BitVec 4) (x y : Reg) (n : BitVec 4) :
    formatRR f x y n &&& 0xF000#16 = formatRR f 0 0 0 := by
  refine (append_and (f ++ x : Byte) (0xF#4 ++ 0#4 : Byte) (y ++ n : Byte) 0#8).trans ?_
  rw [append_and, and_F, BitVec.and_zero, BitVec.and_zero]; rfl

end Sys2Proof
end

