-- ==== Sys2Proof/Laws/State.lean ====
section
/-! SUPPORT. The field lemmas of State: for each update of a state and each field, what the field is after it. All hold
by rfl and are simp lemmas, so that no later proof unfolds a record update. -/

namespace Sys2Proof.Machine

/-! ### setV -/

@[simp] theorem State.setV_i (s : State) (x : Reg) (b : Byte) : (s.setV x b).i = s.i := rfl
@[simp] theorem State.setV_pc (s : State) (x : Reg) (b : Byte) : (s.setV x b).pc = s.pc := rfl
@[simp] theorem State.setV_sp (s : State) (x : Reg) (b : Byte) : (s.setV x b).sp = s.sp := rfl
@[simp] theorem State.setV_stack (s : State) (x : Reg) (b : Byte) : (s.setV x b).stack = s.stack := rfl
@[simp] theorem State.setV_mem (s : State) (x : Reg) (b : Byte) : (s.setV x b).mem = s.mem := rfl
@[simp] theorem State.setV_fb (s : State) (x : Reg) (b : Byte) : (s.setV x b).fb = s.fb := rfl
@[simp] theorem State.setV_dirty (s : State) (x : Reg) (b : Byte) : (s.setV x b).dirty = s.dirty := rfl
@[simp] theorem State.setV_key (s : State) (x : Reg) (b : Byte) : (s.setV x b).key = s.key := rfl
@[simp] theorem State.setV_dt (s : State) (x : Reg) (b : Byte) : (s.setV x b).dt = s.dt := rfl
@[simp] theorem State.setV_st (s : State) (x : Reg) (b : Byte) : (s.setV x b).st = s.st := rfl
@[simp] theorem State.setV_fault (s : State) (x : Reg) (b : Byte) : (s.setV x b).fault = s.fault := rfl
@[simp] theorem State.setV_cycles (s : State) (x : Reg) (b : Byte) : (s.setV x b).cycles = s.cycles := rfl
@[simp] theorem State.setV_env (s : State) (x : Reg) (b : Byte) : (s.setV x b).env = s.env := rfl
@[simp] theorem State.setV_keyAt (s : State) (x : Reg) (b : Byte) (j : Fin 16) : (s.setV x b).keyAt j = s.keyAt j := rfl
@[simp] theorem State.setV_halted (s : State) (x : Reg) (b : Byte) : (s.setV x b).halted = s.halted := rfl

/-! ### setPc -/

@[simp] theorem State.setPc_v (s : State) (a : Word) : (s.setPc a).v = s.v := rfl
@[simp] theorem State.setPc_i (s : State) (a : Word) : (s.setPc a).i = s.i := rfl
@[simp] theorem State.setPc_pc (s : State) (a : Word) : (s.setPc a).pc = a := rfl
@[simp] theorem State.setPc_sp (s : State) (a : Word) : (s.setPc a).sp = s.sp := rfl
@[simp] theorem State.setPc_stack (s : State) (a : Word) : (s.setPc a).stack = s.stack := rfl
@[simp] theorem State.setPc_mem (s : State) (a : Word) : (s.setPc a).mem = s.mem := rfl
@[simp] theorem State.setPc_fb (s : State) (a : Word) : (s.setPc a).fb = s.fb := rfl
@[simp] theorem State.setPc_dirty (s : State) (a : Word) : (s.setPc a).dirty = s.dirty := rfl
@[simp] theorem State.setPc_key (s : State) (a : Word) : (s.setPc a).key = s.key := rfl
@[simp] theorem State.setPc_dt (s : State) (a : Word) : (s.setPc a).dt = s.dt := rfl
@[simp] theorem State.setPc_st (s : State) (a : Word) : (s.setPc a).st = s.st := rfl
@[simp] theorem State.setPc_fault (s : State) (a : Word) : (s.setPc a).fault = s.fault := rfl
@[simp] theorem State.setPc_cycles (s : State) (a : Word) : (s.setPc a).cycles = s.cycles := rfl
@[simp] theorem State.setPc_env (s : State) (a : Word) : (s.setPc a).env = s.env := rfl
@[simp] theorem State.setPc_getV (s : State) (a : Word) (q : Reg) : (s.setPc a).getV q = s.getV q := rfl
@[simp] theorem State.setPc_keyAt (s : State) (a : Word) (j : Fin 16) : (s.setPc a).keyAt j = s.keyAt j := rfl
@[simp] theorem State.setPc_halted (s : State) (a : Word) : (s.setPc a).halted = s.halted := rfl

/-! ### advance -/

@[simp] theorem State.advance_v (s : State) : s.advance.v = s.v := rfl
@[simp] theorem State.advance_i (s : State) : s.advance.i = s.i := rfl
@[simp] theorem State.advance_pc (s : State) : s.advance.pc = s.pc + 2 := rfl
@[simp] theorem State.advance_sp (s : State) : s.advance.sp = s.sp := rfl
@[simp] theorem State.advance_stack (s : State) : s.advance.stack = s.stack := rfl
@[simp] theorem State.advance_mem (s : State) : s.advance.mem = s.mem := rfl
@[simp] theorem State.advance_fb (s : State) : s.advance.fb = s.fb := rfl
@[simp] theorem State.advance_dirty (s : State) : s.advance.dirty = s.dirty := rfl
@[simp] theorem State.advance_key (s : State) : s.advance.key = s.key := rfl
@[simp] theorem State.advance_dt (s : State) : s.advance.dt = s.dt := rfl
@[simp] theorem State.advance_st (s : State) : s.advance.st = s.st := rfl
@[simp] theorem State.advance_fault (s : State) : s.advance.fault = s.fault := rfl
@[simp] theorem State.advance_cycles (s : State) : s.advance.cycles = s.cycles := rfl
@[simp] theorem State.advance_env (s : State) : s.advance.env = s.env := rfl
@[simp] theorem State.advance_getV (s : State) (q : Reg) : s.advance.getV q = s.getV q := rfl
@[simp] theorem State.advance_keyAt (s : State) (j : Fin 16) : s.advance.keyAt j = s.keyAt j := rfl
@[simp] theorem State.advance_halted (s : State) : s.advance.halted = s.halted := rfl

/-! ### skipIf -/

@[simp] theorem State.skipIf_v (s : State) (c : Bool) : (s.skipIf c).v = s.v := rfl
@[simp] theorem State.skipIf_i (s : State) (c : Bool) : (s.skipIf c).i = s.i := rfl
@[simp] theorem State.skipIf_pc (s : State) (c : Bool) : (s.skipIf c).pc = if c then s.pc + 4 else s.pc + 2 := rfl
@[simp] theorem State.skipIf_sp (s : State) (c : Bool) : (s.skipIf c).sp = s.sp := rfl
@[simp] theorem State.skipIf_stack (s : State) (c : Bool) : (s.skipIf c).stack = s.stack := rfl
@[simp] theorem State.skipIf_mem (s : State) (c : Bool) : (s.skipIf c).mem = s.mem := rfl
@[simp] theorem State.skipIf_fb (s : State) (c : Bool) : (s.skipIf c).fb = s.fb := rfl
@[simp] theorem State.skipIf_dirty (s : State) (c : Bool) : (s.skipIf c).dirty = s.dirty := rfl
@[simp] theorem State.skipIf_key (s : State) (c : Bool) : (s.skipIf c).key = s.key := rfl
@[simp] theorem State.skipIf_dt (s : State) (c : Bool) : (s.skipIf c).dt = s.dt := rfl
@[simp] theorem State.skipIf_st (s : State) (c : Bool) : (s.skipIf c).st = s.st := rfl
@[simp] theorem State.skipIf_fault (s : State) (c : Bool) : (s.skipIf c).fault = s.fault := rfl
@[simp] theorem State.skipIf_cycles (s : State) (c : Bool) : (s.skipIf c).cycles = s.cycles := rfl
@[simp] theorem State.skipIf_env (s : State) (c : Bool) : (s.skipIf c).env = s.env := rfl
@[simp] theorem State.skipIf_getV (s : State) (c : Bool) (q : Reg) : (s.skipIf c).getV q = s.getV q := rfl
@[simp] theorem State.skipIf_keyAt (s : State) (c : Bool) (j : Fin 16) : (s.skipIf c).keyAt j = s.keyAt j := rfl
@[simp] theorem State.skipIf_halted (s : State) (c : Bool) : (s.skipIf c).halted = s.halted := rfl

/-! ### setI -/

@[simp] theorem State.setI_v (s : State) (a : Word) : (s.setI a).v = s.v := rfl
@[simp] theorem State.setI_i (s : State) (a : Word) : (s.setI a).i = a := rfl
@[simp] theorem State.setI_pc (s : State) (a : Word) : (s.setI a).pc = s.pc := rfl
@[simp] theorem State.setI_sp (s : State) (a : Word) : (s.setI a).sp = s.sp := rfl
@[simp] theorem State.setI_stack (s : State) (a : Word) : (s.setI a).stack = s.stack := rfl
@[simp] theorem State.setI_mem (s : State) (a : Word) : (s.setI a).mem = s.mem := rfl
@[simp] theorem State.setI_fb (s : State) (a : Word) : (s.setI a).fb = s.fb := rfl
@[simp] theorem State.setI_dirty (s : State) (a : Word) : (s.setI a).dirty = s.dirty := rfl
@[simp] theorem State.setI_key (s : State) (a : Word) : (s.setI a).key = s.key := rfl
@[simp] theorem State.setI_dt (s : State) (a : Word) : (s.setI a).dt = s.dt := rfl
@[simp] theorem State.setI_st (s : State) (a : Word) : (s.setI a).st = s.st := rfl
@[simp] theorem State.setI_fault (s : State) (a : Word) : (s.setI a).fault = s.fault := rfl
@[simp] theorem State.setI_cycles (s : State) (a : Word) : (s.setI a).cycles = s.cycles := rfl
@[simp] theorem State.setI_env (s : State) (a : Word) : (s.setI a).env = s.env := rfl
@[simp] theorem State.setI_getV (s : State) (a : Word) (q : Reg) : (s.setI a).getV q = s.getV q := rfl
@[simp] theorem State.setI_keyAt (s : State) (a : Word) (j : Fin 16) : (s.setI a).keyAt j = s.keyAt j := rfl
@[simp] theorem State.setI_halted (s : State) (a : Word) : (s.setI a).halted = s.halted := rfl

/-! ### setDt -/

@[simp] theorem State.setDt_v (s : State) (b : Byte) : (s.setDt b).v = s.v := rfl
@[simp] theorem State.setDt_i (s : State) (b : Byte) : (s.setDt b).i = s.i := rfl
@[simp] theorem State.setDt_pc (s : State) (b : Byte) : (s.setDt b).pc = s.pc := rfl
@[simp] theorem State.setDt_sp (s : State) (b : Byte) : (s.setDt b).sp = s.sp := rfl
@[simp] theorem State.setDt_stack (s : State) (b : Byte) : (s.setDt b).stack = s.stack := rfl
@[simp] theorem State.setDt_mem (s : State) (b : Byte) : (s.setDt b).mem = s.mem := rfl
@[simp] theorem State.setDt_fb (s : State) (b : Byte) : (s.setDt b).fb = s.fb := rfl
@[simp] theorem State.setDt_dirty (s : State) (b : Byte) : (s.setDt b).dirty = s.dirty := rfl
@[simp] theorem State.setDt_key (s : State) (b : Byte) : (s.setDt b).key = s.key := rfl
@[simp] theorem State.setDt_dt (s : State) (b : Byte) : (s.setDt b).dt = b := rfl
@[simp] theorem State.setDt_st (s : State) (b : Byte) : (s.setDt b).st = s.st := rfl
@[simp] theorem State.setDt_fault (s : State) (b : Byte) : (s.setDt b).fault = s.fault := rfl
@[simp] theorem State.setDt_cycles (s : State) (b : Byte) : (s.setDt b).cycles = s.cycles := rfl
@[simp] theorem State.setDt_env (s : State) (b : Byte) : (s.setDt b).env = s.env := rfl
@[simp] theorem State.setDt_getV (s : State) (b : Byte) (q : Reg) : (s.setDt b).getV q = s.getV q := rfl
@[simp] theorem State.setDt_keyAt (s : State) (b : Byte) (j : Fin 16) : (s.setDt b).keyAt j = s.keyAt j := rfl
@[simp] theorem State.setDt_halted (s : State) (b : Byte) : (s.setDt b).halted = s.halted := rfl

/-! ### setSt -/

@[simp] theorem State.setSt_v (s : State) (b : Byte) : (s.setSt b).v = s.v := rfl
@[simp] theorem State.setSt_i (s : State) (b : Byte) : (s.setSt b).i = s.i := rfl
@[simp] theorem State.setSt_pc (s : State) (b : Byte) : (s.setSt b).pc = s.pc := rfl
@[simp] theorem State.setSt_sp (s : State) (b : Byte) : (s.setSt b).sp = s.sp := rfl
@[simp] theorem State.setSt_stack (s : State) (b : Byte) : (s.setSt b).stack = s.stack := rfl
@[simp] theorem State.setSt_mem (s : State) (b : Byte) : (s.setSt b).mem = s.mem := rfl
@[simp] theorem State.setSt_fb (s : State) (b : Byte) : (s.setSt b).fb = s.fb := rfl
@[simp] theorem State.setSt_dirty (s : State) (b : Byte) : (s.setSt b).dirty = s.dirty := rfl
@[simp] theorem State.setSt_key (s : State) (b : Byte) : (s.setSt b).key = s.key := rfl
@[simp] theorem State.setSt_dt (s : State) (b : Byte) : (s.setSt b).dt = s.dt := rfl
@[simp] theorem State.setSt_st (s : State) (b : Byte) : (s.setSt b).st = b := rfl
@[simp] theorem State.setSt_fault (s : State) (b : Byte) : (s.setSt b).fault = s.fault := rfl
@[simp] theorem State.setSt_cycles (s : State) (b : Byte) : (s.setSt b).cycles = s.cycles := rfl
@[simp] theorem State.setSt_env (s : State) (b : Byte) : (s.setSt b).env = s.env := rfl
@[simp] theorem State.setSt_getV (s : State) (b : Byte) (q : Reg) : (s.setSt b).getV q = s.getV q := rfl
@[simp] theorem State.setSt_keyAt (s : State) (b : Byte) (j : Fin 16) : (s.setSt b).keyAt j = s.keyAt j := rfl
@[simp] theorem State.setSt_halted (s : State) (b : Byte) : (s.setSt b).halted = s.halted := rfl

/-! ### emit -/

@[simp] theorem State.emit_v (s : State) (o : Output) : (s.emit o).v = s.v := rfl
@[simp] theorem State.emit_i (s : State) (o : Output) : (s.emit o).i = s.i := rfl
@[simp] theorem State.emit_pc (s : State) (o : Output) : (s.emit o).pc = s.pc := rfl
@[simp] theorem State.emit_sp (s : State) (o : Output) : (s.emit o).sp = s.sp := rfl
@[simp] theorem State.emit_stack (s : State) (o : Output) : (s.emit o).stack = s.stack := rfl
@[simp] theorem State.emit_mem (s : State) (o : Output) : (s.emit o).mem = s.mem := rfl
@[simp] theorem State.emit_fb (s : State) (o : Output) : (s.emit o).fb = s.fb := rfl
@[simp] theorem State.emit_dirty (s : State) (o : Output) : (s.emit o).dirty = s.dirty := rfl
@[simp] theorem State.emit_key (s : State) (o : Output) : (s.emit o).key = s.key := rfl
@[simp] theorem State.emit_dt (s : State) (o : Output) : (s.emit o).dt = s.dt := rfl
@[simp] theorem State.emit_st (s : State) (o : Output) : (s.emit o).st = s.st := rfl
@[simp] theorem State.emit_fault (s : State) (o : Output) : (s.emit o).fault = s.fault := rfl
@[simp] theorem State.emit_cycles (s : State) (o : Output) : (s.emit o).cycles = s.cycles := rfl
@[simp] theorem State.emit_getV (s : State) (o : Output) (q : Reg) : (s.emit o).getV q = s.getV q := rfl
@[simp] theorem State.emit_keyAt (s : State) (o : Output) (j : Fin 16) : (s.emit o).keyAt j = s.keyAt j := rfl
@[simp] theorem State.emit_halted (s : State) (o : Output) : (s.emit o).halted = s.halted := rfl
@[simp] theorem State.emit_schedule (s : State) (o : Output) : (s.emit o).env.schedule = s.env.schedule := rfl
@[simp] theorem State.emit_rnd (s : State) (o : Output) : (s.emit o).env.rnd = s.env.rnd := rfl
@[simp] theorem State.emit_draws (s : State) (o : Output) : (s.emit o).env.draws = s.env.draws := rfl
@[simp] theorem State.emit_history (s : State) (o : Output) : (s.emit o).env.history = o :: s.env.history := rfl

/-! ### setMem -/

@[simp] theorem State.setMem_v (s : State) (m : Memory) : (s.setMem m).v = s.v := rfl
@[simp] theorem State.setMem_i (s : State) (m : Memory) : (s.setMem m).i = s.i := rfl
@[simp] theorem State.setMem_pc (s : State) (m : Memory) : (s.setMem m).pc = s.pc := rfl
@[simp] theorem State.setMem_sp (s : State) (m : Memory) : (s.setMem m).sp = s.sp := rfl
@[simp] theorem State.setMem_stack (s : State) (m : Memory) : (s.setMem m).stack = s.stack := rfl
@[simp] theorem State.setMem_mem (s : State) (m : Memory) : (s.setMem m).mem = m := rfl
@[simp] theorem State.setMem_fb (s : State) (m : Memory) : (s.setMem m).fb = s.fb := rfl
@[simp] theorem State.setMem_dirty (s : State) (m : Memory) : (s.setMem m).dirty = s.dirty := rfl
@[simp] theorem State.setMem_key (s : State) (m : Memory) : (s.setMem m).key = s.key := rfl
@[simp] theorem State.setMem_dt (s : State) (m : Memory) : (s.setMem m).dt = s.dt := rfl
@[simp] theorem State.setMem_st (s : State) (m : Memory) : (s.setMem m).st = s.st := rfl
@[simp] theorem State.setMem_fault (s : State) (m : Memory) : (s.setMem m).fault = s.fault := rfl
@[simp] theorem State.setMem_cycles (s : State) (m : Memory) : (s.setMem m).cycles = s.cycles := rfl
@[simp] theorem State.setMem_env (s : State) (m : Memory) : (s.setMem m).env = s.env := rfl
@[simp] theorem State.setMem_getV (s : State) (m : Memory) (q : Reg) : (s.setMem m).getV q = s.getV q := rfl
@[simp] theorem State.setMem_keyAt (s : State) (m : Memory) (j : Fin 16) : (s.setMem m).keyAt j = s.keyAt j := rfl
@[simp] theorem State.setMem_halted (s : State) (m : Memory) : (s.setMem m).halted = s.halted := rfl

/-! ### setScreen -/

@[simp] theorem State.setScreen_v (s : State) (fb : Framebuffer) : (s.setScreen fb).v = s.v := rfl
@[simp] theorem State.setScreen_i (s : State) (fb : Framebuffer) : (s.setScreen fb).i = s.i := rfl
@[simp] theorem State.setScreen_pc (s : State) (fb : Framebuffer) : (s.setScreen fb).pc = s.pc := rfl
@[simp] theorem State.setScreen_sp (s : State) (fb : Framebuffer) : (s.setScreen fb).sp = s.sp := rfl
@[simp] theorem State.setScreen_stack (s : State) (fb : Framebuffer) : (s.setScreen fb).stack = s.stack := rfl
@[simp] theorem State.setScreen_mem (s : State) (fb : Framebuffer) : (s.setScreen fb).mem = s.mem := rfl
@[simp] theorem State.setScreen_fb (s : State) (fb : Framebuffer) : (s.setScreen fb).fb = fb := rfl
@[simp] theorem State.setScreen_dirty (s : State) (fb : Framebuffer) : (s.setScreen fb).dirty = true := rfl
@[simp] theorem State.setScreen_key (s : State) (fb : Framebuffer) : (s.setScreen fb).key = s.key := rfl
@[simp] theorem State.setScreen_dt (s : State) (fb : Framebuffer) : (s.setScreen fb).dt = s.dt := rfl
@[simp] theorem State.setScreen_st (s : State) (fb : Framebuffer) : (s.setScreen fb).st = s.st := rfl
@[simp] theorem State.setScreen_fault (s : State) (fb : Framebuffer) : (s.setScreen fb).fault = s.fault := rfl
@[simp] theorem State.setScreen_cycles (s : State) (fb : Framebuffer) : (s.setScreen fb).cycles = s.cycles := rfl
@[simp] theorem State.setScreen_env (s : State) (fb : Framebuffer) : (s.setScreen fb).env = s.env := rfl
@[simp] theorem State.setScreen_getV (s : State) (fb : Framebuffer) (q : Reg) : (s.setScreen fb).getV q = s.getV q := rfl
@[simp] theorem State.setScreen_keyAt (s : State) (fb : Framebuffer) (j : Fin 16) : (s.setScreen fb).keyAt j = s.keyAt j := rfl
@[simp] theorem State.setScreen_halted (s : State) (fb : Framebuffer) : (s.setScreen fb).halted = s.halted := rfl

/-! ### setKey -/

@[simp] theorem State.setKey_v (s : State) (k : Fin 16) (b : Bool) : (s.setKey k b).v = s.v := rfl
@[simp] theorem State.setKey_i (s : State) (k : Fin 16) (b : Bool) : (s.setKey k b).i = s.i := rfl
@[simp] theorem State.setKey_pc (s : State) (k : Fin 16) (b : Bool) : (s.setKey k b).pc = s.pc := rfl
@[simp] theorem State.setKey_sp (s : State) (k : Fin 16) (b : Bool) : (s.setKey k b).sp = s.sp := rfl
@[simp] theorem State.setKey_stack (s : State) (k : Fin 16) (b : Bool) : (s.setKey k b).stack = s.stack := rfl
@[simp] theorem State.setKey_mem (s : State) (k : Fin 16) (b : Bool) : (s.setKey k b).mem = s.mem := rfl
@[simp] theorem State.setKey_fb (s : State) (k : Fin 16) (b : Bool) : (s.setKey k b).fb = s.fb := rfl
@[simp] theorem State.setKey_dirty (s : State) (k : Fin 16) (b : Bool) : (s.setKey k b).dirty = s.dirty := rfl
@[simp] theorem State.setKey_dt (s : State) (k : Fin 16) (b : Bool) : (s.setKey k b).dt = s.dt := rfl
@[simp] theorem State.setKey_st (s : State) (k : Fin 16) (b : Bool) : (s.setKey k b).st = s.st := rfl
@[simp] theorem State.setKey_fault (s : State) (k : Fin 16) (b : Bool) : (s.setKey k b).fault = s.fault := rfl
@[simp] theorem State.setKey_cycles (s : State) (k : Fin 16) (b : Bool) : (s.setKey k b).cycles = s.cycles := rfl
@[simp] theorem State.setKey_env (s : State) (k : Fin 16) (b : Bool) : (s.setKey k b).env = s.env := rfl
@[simp] theorem State.setKey_getV (s : State) (k : Fin 16) (b : Bool) (q : Reg) : (s.setKey k b).getV q = s.getV q := rfl
@[simp] theorem State.setKey_halted (s : State) (k : Fin 16) (b : Bool) : (s.setKey k b).halted = s.halted := rfl

/-! ### drawn -/

@[simp] theorem State.drawn_v (s : State) : s.drawn.v = s.v := rfl
@[simp] theorem State.drawn_i (s : State) : s.drawn.i = s.i := rfl
@[simp] theorem State.drawn_pc (s : State) : s.drawn.pc = s.pc := rfl
@[simp] theorem State.drawn_sp (s : State) : s.drawn.sp = s.sp := rfl
@[simp] theorem State.drawn_stack (s : State) : s.drawn.stack = s.stack := rfl
@[simp] theorem State.drawn_mem (s : State) : s.drawn.mem = s.mem := rfl
@[simp] theorem State.drawn_fb (s : State) : s.drawn.fb = s.fb := rfl
@[simp] theorem State.drawn_dirty (s : State) : s.drawn.dirty = s.dirty := rfl
@[simp] theorem State.drawn_key (s : State) : s.drawn.key = s.key := rfl
@[simp] theorem State.drawn_dt (s : State) : s.drawn.dt = s.dt := rfl
@[simp] theorem State.drawn_st (s : State) : s.drawn.st = s.st := rfl
@[simp] theorem State.drawn_fault (s : State) : s.drawn.fault = s.fault := rfl
@[simp] theorem State.drawn_cycles (s : State) : s.drawn.cycles = s.cycles := rfl
@[simp] theorem State.drawn_getV (s : State) (q : Reg) : s.drawn.getV q = s.getV q := rfl
@[simp] theorem State.drawn_keyAt (s : State) (j : Fin 16) : s.drawn.keyAt j = s.keyAt j := rfl
@[simp] theorem State.drawn_halted (s : State) : s.drawn.halted = s.halted := rfl
@[simp] theorem State.drawn_schedule (s : State) : s.drawn.env.schedule = s.env.schedule := rfl
@[simp] theorem State.drawn_rnd (s : State) : s.drawn.env.rnd = s.env.rnd := rfl
@[simp] theorem State.drawn_history (s : State) : s.drawn.env.history = s.env.history := rfl
@[simp] theorem State.drawn_draws (s : State) : s.drawn.env.draws = s.env.draws + 1 := rfl

/-! ### setRnd -/

@[simp] theorem State.setRnd_v (s : State) (r : Option Byte) : (s.setRnd r).v = s.v := rfl
@[simp] theorem State.setRnd_i (s : State) (r : Option Byte) : (s.setRnd r).i = s.i := rfl
@[simp] theorem State.setRnd_pc (s : State) (r : Option Byte) : (s.setRnd r).pc = s.pc := rfl
@[simp] theorem State.setRnd_sp (s : State) (r : Option Byte) : (s.setRnd r).sp = s.sp := rfl
@[simp] theorem State.setRnd_stack (s : State) (r : Option Byte) : (s.setRnd r).stack = s.stack := rfl
@[simp] theorem State.setRnd_mem (s : State) (r : Option Byte) : (s.setRnd r).mem = s.mem := rfl
@[simp] theorem State.setRnd_fb (s : State) (r : Option Byte) : (s.setRnd r).fb = s.fb := rfl
@[simp] theorem State.setRnd_dirty (s : State) (r : Option Byte) : (s.setRnd r).dirty = s.dirty := rfl
@[simp] theorem State.setRnd_key (s : State) (r : Option Byte) : (s.setRnd r).key = s.key := rfl
@[simp] theorem State.setRnd_dt (s : State) (r : Option Byte) : (s.setRnd r).dt = s.dt := rfl
@[simp] theorem State.setRnd_st (s : State) (r : Option Byte) : (s.setRnd r).st = s.st := rfl
@[simp] theorem State.setRnd_fault (s : State) (r : Option Byte) : (s.setRnd r).fault = s.fault := rfl
@[simp] theorem State.setRnd_cycles (s : State) (r : Option Byte) : (s.setRnd r).cycles = s.cycles := rfl
@[simp] theorem State.setRnd_getV (s : State) (r : Option Byte) (q : Reg) : (s.setRnd r).getV q = s.getV q := rfl
@[simp] theorem State.setRnd_keyAt (s : State) (r : Option Byte) (j : Fin 16) : (s.setRnd r).keyAt j = s.keyAt j := rfl
@[simp] theorem State.setRnd_halted (s : State) (r : Option Byte) : (s.setRnd r).halted = s.halted := rfl
@[simp] theorem State.setRnd_schedule (s : State) (r : Option Byte) : (s.setRnd r).env.schedule = s.env.schedule := rfl
@[simp] theorem State.setRnd_draws (s : State) (r : Option Byte) : (s.setRnd r).env.draws = s.env.draws := rfl
@[simp] theorem State.setRnd_history (s : State) (r : Option Byte) : (s.setRnd r).env.history = s.env.history := rfl
@[simp] theorem State.setRnd_rnd (s : State) (r : Option Byte) : (s.setRnd r).env.rnd = r := rfl
@[simp] theorem State.setRnd_setRnd (s : State) (r q : Option Byte) : (s.setRnd r).setRnd q = s.setRnd q := rfl

/-! ### countCycle -/

@[simp] theorem State.countCycle_v (s : State) : s.countCycle.v = s.v := rfl
@[simp] theorem State.countCycle_i (s : State) : s.countCycle.i = s.i := rfl
@[simp] theorem State.countCycle_pc (s : State) : s.countCycle.pc = s.pc := rfl
@[simp] theorem State.countCycle_sp (s : State) : s.countCycle.sp = s.sp := rfl
@[simp] theorem State.countCycle_stack (s : State) : s.countCycle.stack = s.stack := rfl
@[simp] theorem State.countCycle_mem (s : State) : s.countCycle.mem = s.mem := rfl
@[simp] theorem State.countCycle_fb (s : State) : s.countCycle.fb = s.fb := rfl
@[simp] theorem State.countCycle_dirty (s : State) : s.countCycle.dirty = s.dirty := rfl
@[simp] theorem State.countCycle_key (s : State) : s.countCycle.key = s.key := rfl
@[simp] theorem State.countCycle_dt (s : State) : s.countCycle.dt = s.dt := rfl
@[simp] theorem State.countCycle_st (s : State) : s.countCycle.st = s.st := rfl
@[simp] theorem State.countCycle_fault (s : State) : s.countCycle.fault = s.fault := rfl
@[simp] theorem State.countCycle_cycles (s : State) : s.countCycle.cycles = s.cycles + 1 := rfl
@[simp] theorem State.countCycle_env (s : State) : s.countCycle.env = s.env := rfl
@[simp] theorem State.countCycle_getV (s : State) (q : Reg) : s.countCycle.getV q = s.getV q := rfl
@[simp] theorem State.countCycle_keyAt (s : State) (j : Fin 16) : s.countCycle.keyAt j = s.keyAt j := rfl
@[simp] theorem State.countCycle_halted (s : State) : s.countCycle.halted = s.halted := rfl

/-! ### setSchedule -/

@[simp] theorem State.setSchedule_v (s : State) (es : List Event) : (s.setSchedule es).v = s.v := rfl
@[simp] theorem State.setSchedule_i (s : State) (es : List Event) : (s.setSchedule es).i = s.i := rfl
@[simp] theorem State.setSchedule_pc (s : State) (es : List Event) : (s.setSchedule es).pc = s.pc := rfl
@[simp] theorem State.setSchedule_sp (s : State) (es : List Event) : (s.setSchedule es).sp = s.sp := rfl
@[simp] theorem State.setSchedule_stack (s : State) (es : List Event) : (s.setSchedule es).stack = s.stack := rfl
@[simp] theorem State.setSchedule_mem (s : State) (es : List Event) : (s.setSchedule es).mem = s.mem := rfl
@[simp] theorem State.setSchedule_fb (s : State) (es : List Event) : (s.setSchedule es).fb = s.fb := rfl
@[simp] theorem State.setSchedule_dirty (s : State) (es : List Event) : (s.setSchedule es).dirty = s.dirty := rfl
@[simp] theorem State.setSchedule_key (s : State) (es : List Event) : (s.setSchedule es).key = s.key := rfl
@[simp] theorem State.setSchedule_dt (s : State) (es : List Event) : (s.setSchedule es).dt = s.dt := rfl
@[simp] theorem State.setSchedule_st (s : State) (es : List Event) : (s.setSchedule es).st = s.st := rfl
@[simp] theorem State.setSchedule_fault (s : State) (es : List Event) : (s.setSchedule es).fault = s.fault := rfl
@[simp] theorem State.setSchedule_cycles (s : State) (es : List Event) : (s.setSchedule es).cycles = s.cycles := rfl
@[simp] theorem State.setSchedule_getV (s : State) (es : List Event) (q : Reg) : (s.setSchedule es).getV q = s.getV q := rfl
@[simp] theorem State.setSchedule_keyAt (s : State) (es : List Event) (j : Fin 16) : (s.setSchedule es).keyAt j = s.keyAt j := rfl
@[simp] theorem State.setSchedule_halted (s : State) (es : List Event) : (s.setSchedule es).halted = s.halted := rfl
@[simp] theorem State.setSchedule_rnd (s : State) (es : List Event) : (s.setSchedule es).env.rnd = s.env.rnd := rfl
@[simp] theorem State.setSchedule_draws (s : State) (es : List Event) : (s.setSchedule es).env.draws = s.env.draws := rfl
@[simp] theorem State.setSchedule_history (s : State) (es : List Event) : (s.setSchedule es).env.history = s.env.history := rfl
@[simp] theorem State.setSchedule_schedule (s : State) (es : List Event) : (s.setSchedule es).env.schedule = es := rfl

/-! ### raise -/

@[simp] theorem State.raise_v (s : State) (f : Fault) : (s.raise f).v = s.v := rfl
@[simp] theorem State.raise_i (s : State) (f : Fault) : (s.raise f).i = s.i := rfl
@[simp] theorem State.raise_pc (s : State) (f : Fault) : (s.raise f).pc = s.pc := rfl
@[simp] theorem State.raise_sp (s : State) (f : Fault) : (s.raise f).sp = s.sp := rfl
@[simp] theorem State.raise_stack (s : State) (f : Fault) : (s.raise f).stack = s.stack := rfl
@[simp] theorem State.raise_mem (s : State) (f : Fault) : (s.raise f).mem = s.mem := rfl
@[simp] theorem State.raise_fb (s : State) (f : Fault) : (s.raise f).fb = s.fb := rfl
@[simp] theorem State.raise_dirty (s : State) (f : Fault) : (s.raise f).dirty = s.dirty := rfl
@[simp] theorem State.raise_key (s : State) (f : Fault) : (s.raise f).key = s.key := rfl
@[simp] theorem State.raise_dt (s : State) (f : Fault) : (s.raise f).dt = s.dt := rfl
@[simp] theorem State.raise_st (s : State) (f : Fault) : (s.raise f).st = s.st := rfl
@[simp] theorem State.raise_cycles (s : State) (f : Fault) : (s.raise f).cycles = s.cycles := rfl
@[simp] theorem State.raise_fault (s : State) (f : Fault) : (s.raise f).fault = some f := rfl
@[simp] theorem State.raise_env (s : State) (f : Fault) :
    (s.raise f).env = { s.env with history := .faulted f :: s.env.history } := rfl
@[simp] theorem State.raise_getV (s : State) (f : Fault) (q : Reg) : (s.raise f).getV q = s.getV q := rfl
@[simp] theorem State.raise_keyAt (s : State) (f : Fault) (j : Fin 16) : (s.raise f).keyAt j = s.keyAt j := rfl
@[simp] theorem State.raise_halted (s : State) (f : Fault) : (s.raise f).halted = true := rfl

/-! ### init and reset -/

@[simp] theorem State.init_v (font : Vector Byte 80) (env : Env) : (State.init font env).v = Vector.replicate 16 0 := rfl
@[simp] theorem State.init_i (font : Vector Byte 80) (env : Env) : (State.init font env).i = 0x0000 := rfl
@[simp] theorem State.init_pc (font : Vector Byte 80) (env : Env) : (State.init font env).pc = 0x0200 := rfl
@[simp] theorem State.init_sp (font : Vector Byte 80) (env : Env) : (State.init font env).sp = 0 := rfl
@[simp] theorem State.init_stack (font : Vector Byte 80) (env : Env) : (State.init font env).stack = Vector.replicate 16 0 := rfl
@[simp] theorem State.init_mem (font : Vector Byte 80) (env : Env) : (State.init font env).mem = { font := font, cells := [] } := rfl
@[simp] theorem State.init_fb (font : Vector Byte 80) (env : Env) : (State.init font env).fb = Vector.replicate 256 0 := rfl
@[simp] theorem State.init_dirty (font : Vector Byte 80) (env : Env) : (State.init font env).dirty = true := rfl
@[simp] theorem State.init_key (font : Vector Byte 80) (env : Env) : (State.init font env).key = Vector.replicate 16 false := rfl
@[simp] theorem State.init_dt (font : Vector Byte 80) (env : Env) : (State.init font env).dt = 0 := rfl
@[simp] theorem State.init_st (font : Vector Byte 80) (env : Env) : (State.init font env).st = 0 := rfl
@[simp] theorem State.init_fault (font : Vector Byte 80) (env : Env) : (State.init font env).fault = none := rfl
@[simp] theorem State.init_cycles (font : Vector Byte 80) (env : Env) : (State.init font env).cycles = 0 := rfl
@[simp] theorem State.init_env (font : Vector Byte 80) (env : Env) : (State.init font env).env = env := rfl

/-- The core is halted exactly when a fault is held (60_exceptions.md R212). -/
theorem State.halted_eq_false {s : State} : s.halted = false ↔ s.fault = none := by
  simp [State.halted]

end Sys2Proof.Machine
end

