-- ==== Sys2Proof/Laws/Registers.lean ====
section
/-! SUPPORT. What the register operations can do: read after write, the range forms of FX55 and FX65, the
flag-then-result form, push and pop, the fault operation. -/

namespace Sys2Proof.Machine

/-- A register reads the value last written to it, and no write changes another (10_state.md R21). -/
@[simp] theorem State.getV_setV (s : State) (x y : Reg) (b : Byte) :
    (s.setV x b).getV y = if y = x then b else s.getV y := by
  by_cases h : y = x
  · subst h; simp [State.getV, State.setV]
  · have : x.toNat ≠ y.toNat := fun e => h (BitVec.eq_of_toNat_eq e.symm)
    simp [State.getV, State.setV, h, Vector.getElem_set_ne _ _ this]

/-- Registers are equal as a file when they are equal one by one. -/
theorem State.v_ext {s t : State} (h : ∀ r, t.getV r = s.getV r) : t.v = s.v := by
  apply Vector.ext
  intro k hk
  have := h (BitVec.ofNat 4 k)
  simpa [State.getV, Nat.mod_eq_of_lt hk] using this

/-- The four columns of the table of 41_alu.md R142 in one: the flag is written first, the result is computed on the
registers as they then stand, and it overwrites the flag where X is F. -/
@[simp] theorem State.flagThenResult_getV (s : State) (f : Byte) (x : Reg) (g : State → Byte) (r : Reg) :
    (s.flagThenResult f x g).getV r = if r = x then g (s.setV vF f) else if r = vF then f else s.getV r := by
  simp [State.flagThenResult]

theorem State.flagThenResult_frame (s : State) (f : Byte) (x : Reg) (g : State → Byte) :
    s.flagThenResult f x g = { s with v := (s.flagThenResult f x g).v } := rfl

/-- The byte FX55 stores at offset `k` is V[k] (42_index_memory.md R154). -/
theorem State.getVs_getElem? (s : State) (n k : Nat) (h : k < n) :
    (s.getVs n)[k]? = some (s.getV (BitVec.ofNat 4 k)) := by
  simp [State.getVs, h]

@[simp] theorem State.getVs_length (s : State) (n : Nat) : (s.getVs n).length = n := by
  simp [State.getVs]

/-- Loading registers changes nothing but registers. -/
theorem State.setVs_frame (k : Nat) (bs : List Byte) (s : State) :
    State.setVs k bs s = { s with v := (State.setVs k bs s).v } := by
  induction bs generalizing k s with
  | nil => rfl
  | cons b bs ih => rw [State.setVs, ih]; rfl

/-- Loading V[k], V[k+1], ... from a list: the registers of the range take the bytes, the others keep theirs
(42_index_memory.md R155). -/
theorem State.setVs_getV (k : Nat) (bs : List Byte) (s : State) (h : k + bs.length ≤ 16) (r : Reg) :
    (State.setVs k bs s).getV r = if k ≤ r.toNat then (bs[r.toNat - k]?).getD (s.getV r) else s.getV r := by
  induction bs generalizing k s with
  | nil => simp [State.setVs]
  | cons b bs ih =>
    simp only [List.length_cons] at h
    rw [State.setVs, ih (k + 1) _ (by omega)]
    have hr : (r = BitVec.ofNat 4 k) ↔ r.toNat = k := by
      constructor
      · rintro rfl; simp; omega
      · intro e; apply BitVec.eq_of_toNat_eq; simp [e]; omega
    rcases lt_trichotomy r.toNat k with h1 | h1 | h1
    · simp [hr, show ¬ k + 1 ≤ r.toNat by omega, show ¬ k ≤ r.toNat by omega, show r.toNat ≠ k by omega]
    · simp [hr, h1]
    · have e : r.toNat - k = (r.toNat - (k + 1)) + 1 := by omega
      simp [hr, show k + 1 ≤ r.toNat by omega, show k ≤ r.toNat by omega, show r.toNat ≠ k by omega, e]

/-- Everything `attempt` can do: the continuation on success, the fault operation on a fault. -/
@[simp] theorem State.attempt_ok {α : Type} (s : State) (a : α) (k : α → State) : s.attempt (.ok a) k = k a := rfl
@[simp] theorem State.attempt_error {α : Type} (s : State) (f : Fault) (k : α → State) :
    s.attempt (.error f) k = s.raise f := rfl

/-- A push with room: the address goes to the free slot and SP counts it (40_control_flow.md R112). -/
theorem State.push_ok (s : State) (a : Word) (h : s.sp.val < 16) :
    s.push a = .ok { s with stack := s.stack.set s.sp.val a h, sp := ⟨s.sp.val + 1, by omega⟩ } := by
  simp [State.push, h]

/-- A push with sixteen addresses stacked faults (R112). -/
theorem State.push_full (s : State) (a : Word) (h : s.sp.val = 16) : s.push a = .error (.stackOverflow s.pc) := by
  simp [State.push, h]

/-- A pop with an address stacked (R110). -/
theorem State.pop_ok (s : State) (h : 0 < s.sp.val) :
    s.pop = .ok (s.stack[s.sp.val - 1]'(by omega), { s with sp := ⟨s.sp.val - 1, by omega⟩ }) := by
  simp [State.pop, show s.sp.val ≠ 0 by omega]

/-- A pop of the empty stack faults (R110). -/
theorem State.pop_empty (s : State) (h : s.sp.val = 0) : s.pop = .error (.stackUnderflow s.pc) := by
  simp [State.pop, h]

/-- A register with a value of at most 15 names that key (44_keypad_timers_random.md R191). -/
theorem State.keyOperand_ok (s : State) (x : Reg) (h : (s.getV x).toNat < 16) :
    s.keyOperand x = .ok ⟨(s.getV x).toNat, h⟩ := by
  simp [State.keyOperand, h]

/-- A register with a value above 15 names no key (R191). -/
theorem State.keyOperand_fault (s : State) (x : Reg) (h : 15 < (s.getV x).toNat) :
    s.keyOperand x = .error (.keyIndexOutOfRange (s.getV x)) := by
  simp [State.keyOperand, show ¬ (s.getV x).toNat < 16 by omega]

/-- A key after a key event: the event's key has the new level, the others keep theirs (60_exceptions.md R228). -/
@[simp] theorem State.keyAt_setKey (s : State) (k j : Fin 16) (b : Bool) :
    (s.setKey k b).keyAt j = if j = k then b else s.keyAt j := by
  by_cases h : j = k
  · subst h; simp [State.keyAt, State.setKey]
  · have : k.val ≠ j.val := fun e => h (Fin.ext e.symm)
    simp [State.keyAt, State.setKey, h, Vector.getElem_set_ne _ _ this]

/-- FX0A waits exactly while no key is down (44_keypad_timers_random.md R194). -/
theorem State.lowestKey_eq_none {s : State} : s.lowestKey = none ↔ ∀ k, s.keyAt k = false := by
  simp [State.lowestKey]

/-- FX0A takes the lowest-indexed down key (R194). -/
theorem State.lowestKey_eq_some {s : State} {k : Fin 16} :
    s.lowestKey = some k ↔ s.keyAt k = true ∧ ∀ j, j < k → s.keyAt j = false := by
  rw [State.lowestKey, List.find?_eq_some_iff_getElem]
  constructor
  · rintro ⟨h, i, hi, e, hlt⟩
    refine ⟨h, fun j hj => ?_⟩
    have hik : i = k.val := by simpa [Fin.ext_iff] using e
    simpa using hlt j.val (by rw [hik]; exact hj)
  · rintro ⟨h, hlt⟩
    refine ⟨h, k.val, by simp, by simp, fun j hj => ?_⟩
    simpa using hlt ⟨j, by omega⟩ (by simpa [Fin.lt_def] using hj)

end Sys2Proof.Machine
end

