-- ==== Sys2Proof/Laws/Memory.lean ====
section
/-! SUPPORT. What the memory operations can do: read after write, the canonical form, and the range forms. -/

namespace Sys2Proof.Machine

/-! ### Cell lists -/

theorem lookupCell_insertCell (a b : Nat) (v : Byte) (cs : List Host.Cell) :
    lookupCell b (insertCell a v cs) = if b = a then some v else lookupCell b cs := by
  induction cs with
  | nil => simp [insertCell, lookupCell]
  | cons c cs ih =>
    obtain ⟨d, w⟩ := c
    simp only [insertCell]
    split
    · simp [lookupCell]
    · split
      · subst_vars; simp only [lookupCell]; split <;> simp_all
      · simp only [lookupCell, ih]; split <;> split <;> simp_all

theorem lookupCell_removeCell (a b : Nat) (cs : List Host.Cell) :
    lookupCell b (removeCell a cs) = if b = a then none else lookupCell b cs := by
  induction cs with
  | nil => simp [removeCell, lookupCell]
  | cons c cs ih =>
    obtain ⟨d, w⟩ := c
    simp only [removeCell, List.filter_cons, lookupCell] at ih ⊢
    split <;> simp_all [lookupCell]
    split <;> simp_all

theorem mem_insertCell {a : Nat} {v : Byte} {cs : List Host.Cell} {c : Host.Cell} (h : c ∈ insertCell a v cs) :
    c = (a, v) ∨ c ∈ cs := by
  induction cs with
  | nil => simpa [insertCell] using h
  | cons d cs ih =>
    obtain ⟨b, w⟩ := d
    simp only [insertCell] at h
    split at h
    · simpa using h
    · split at h <;> simp only [List.mem_cons] at h ⊢
      · tauto
      · rcases h with h | h
        · tauto
        · have := ih h; tauto

theorem insertCell_pairwise (a : Nat) (v : Byte) {cs : List Host.Cell} (h : cs.Pairwise (fun p q => p.1 < q.1)) :
    (insertCell a v cs).Pairwise (fun p q => p.1 < q.1) := by
  induction cs with
  | nil => simp [insertCell]
  | cons d cs ih =>
    obtain ⟨b, w⟩ := d
    rw [List.pairwise_cons] at h
    simp only [insertCell]
    split
    · rename_i hab
      simp only [List.pairwise_cons, List.mem_cons]
      refine ⟨?_, h.1, h.2⟩
      rintro c (rfl | hc)
      · exact hab
      · exact lt_trans hab (h.1 c hc)
    · split
      · subst_vars; exact List.pairwise_cons.2 ⟨h.1, h.2⟩
      · refine List.pairwise_cons.2 ⟨fun c hc => ?_, ih h.2⟩
        rcases mem_insertCell hc with rfl | hc
        · simp only; omega
        · exact h.1 c hc

/-- A cell of a rising list is what its address is looked up as. -/
theorem lookupCell_of_mem {a : Nat} {v : Byte} {cs : List Host.Cell} (h : cs.Pairwise (fun p q => p.1 < q.1))
    (hm : (a, v) ∈ cs) : lookupCell a cs = some v := by
  induction cs with
  | nil => simp at hm
  | cons d cs ih =>
    obtain ⟨b, w⟩ := d
    rw [List.pairwise_cons] at h
    rcases List.mem_cons.1 hm with e | hm
    · cases e; simp [lookupCell]
    · have := h.1 _ hm
      simp only [lookupCell, if_neg (show a ≠ b by simp only at this; omega)]
      exact ih h.2 hm

/-- What is looked up is a cell of the list. -/
theorem mem_of_lookupCell {a : Nat} {v : Byte} {cs : List Host.Cell} (h : lookupCell a cs = some v) : (a, v) ∈ cs := by
  induction cs with
  | nil => simp [lookupCell] at h
  | cons d cs ih =>
    obtain ⟨b, w⟩ := d
    simp only [lookupCell] at h
    split at h
    · simp_all
    · exact List.mem_cons_of_mem _ (ih h)

/-! ### One byte -/

@[simp] theorem Memory.write_font (m : Memory) (a : Nat) (v : Byte) : (m.write a v).font = m.font := by
  unfold Memory.write; split <;> rfl

@[simp] theorem Memory.write_background (m : Memory) (a b : Nat) (v : Byte) :
    (m.write a v).background b = m.background b := by
  simp [Memory.background]

/-- A byte reads as the value last written to it, and no write changes another (20_memory.md R58, R63). -/
@[simp] theorem Memory.read_write (m : Memory) (a b : Nat) (v : Byte) :
    (m.write a v).read b = if b = a then v else m.read b := by
  have hb := m.write_background a b v
  rw [Memory.read, hb]
  unfold Memory.write
  split
  · rename_i h
    simp only [lookupCell_removeCell]
    split
    · subst_vars; simp
    · rfl
  · simp only [lookupCell_insertCell]
    split
    · rfl
    · rfl

/-- A write to a legal address keeps the canonical form. -/
theorem Memory.wf_write {m : Memory} (h : m.wf) {a : Nat} (ha : a ≤ 0xFFF) (v : Byte) : (m.write a v).wf := by
  refine ⟨?_, fun c hc => ?_⟩
  · unfold Memory.write
    split
    · exact h.1.filter _
    · exact insertCell_pairwise _ _ h.1
  · rw [Memory.write_background]
    unfold Memory.write at hc
    split at hc
    · exact h.2 c (List.mem_of_mem_filter hc)
    · rcases mem_insertCell hc with rfl | hc
      · exact ⟨ha, by assumption⟩
      · exact h.2 c hc

/-- The empty list is the canonical form of the memory INIT leaves. -/
theorem Memory.wf_nil (font : Vector Byte 80) : Memory.wf { font := font, cells := [] } := by
  simp [Memory.wf]

/-- `MemRead` of a legal address (20_memory.md R57). -/
theorem Memory.memRead_ok (m : Memory) {a : Nat} (h : a ≤ 0xFFF) : m.memRead a = .ok (m.read a) := by
  simp [Memory.memRead, show ¬ 0xFFF < a by omega]

/-- `MemWrite` of a legal address (R58). -/
theorem Memory.memWrite_ok (m : Memory) {a : Nat} (h : a ≤ 0xFFF) (v : Byte) : m.memWrite a v = .ok (m.write a v) := by
  simp [Memory.memWrite, show ¬ 0xFFF < a by omega]

/-! ### Ranges -/

@[simp] theorem Memory.writeAll_font (a : Nat) (bs : List Byte) (m : Memory) :
    (Memory.writeAll a bs m).font = m.font := by
  induction bs generalizing a m with
  | nil => rfl
  | cons b bs ih => simp [Memory.writeAll, ih]

/-- Bytes written at `a`, `a+1`, ...: those addresses read as the bytes, every other as before. -/
theorem Memory.read_writeAll (a : Nat) (bs : List Byte) (m : Memory) (b : Nat) :
    (Memory.writeAll a bs m).read b = if a ≤ b then (bs[b - a]?).getD (m.read b) else m.read b := by
  induction bs generalizing a m with
  | nil => simp [Memory.writeAll]
  | cons c bs ih =>
    rw [Memory.writeAll, ih]
    rcases lt_trichotomy b a with h | h | h
    · simp [show ¬ a + 1 ≤ b by omega, show ¬ a ≤ b by omega, show b ≠ a by omega]
    · simp [h]
    · have e : b - a = (b - (a + 1)) + 1 := by omega
      simp [show a + 1 ≤ b by omega, show a ≤ b by omega, show b ≠ a by omega, e]

/-- Writing a range of legal addresses keeps the canonical form. -/
theorem Memory.wf_writeAll (a : Nat) (bs : List Byte) {m : Memory} (h : m.wf) (ha : bs = [] ∨ a + bs.length ≤ 0x1000) :
    (Memory.writeAll a bs m).wf := by
  induction bs generalizing a m with
  | nil => exact h
  | cons b bs ih =>
    simp only [List.length_cons] at ha
    rw [Memory.writeAll]
    refine ih _ (Memory.wf_write h (by rcases ha with h | h <;> [simp at h; omega]) b) (.inr ?_)
    rcases ha with h | h <;> [simp at h; omega]

/-- Everything `memWrites` can do: the bytes are written if every address of the range is legal, else the fault is the
lowest address above 0xFFF (60_exceptions.md R211). -/
theorem Memory.memWrites_eq (a : Nat) (bs : List Byte) (m : Memory) :
    Memory.memWrites a bs m =
      if bs = [] ∨ a + bs.length ≤ 0x1000 then .ok (Memory.writeAll a bs m)
      else .error (.memOutOfRange (max a 0x1000)) := by
  induction bs generalizing a m with
  | nil => simp [Memory.memWrites, Memory.writeAll]
  | cons b bs ih =>
    by_cases ha : a ≤ 0xFFF
    · rw [Memory.memWrites, Memory.memWrite_ok _ ha]
      simp only [ih, Memory.writeAll, List.length_cons]
      by_cases hn : bs = []
      · subst hn; simp; omega
      · have : 0 < bs.length := List.length_pos_iff.2 hn
        by_cases hl : a + 1 + bs.length ≤ 0x1000
        · simp [hl, show a + (bs.length + 1) ≤ 4096 by omega]
        · simp [hn, hl, show ¬ a + (bs.length + 1) ≤ 4096 by omega, show max (a + 1) 4096 = max a 4096 by omega]
    · simp [Memory.memWrites, Memory.memWrite, show 0xFFF < a by omega,
        show ¬ a + (bs.length + 1) ≤ 4096 by omega, show max a 4096 = a by omega]

/-- Everything `memReads` can do: the bytes of the range if every address is legal, else the fault is the lowest
address above 0xFFF (R211). -/
theorem Memory.memReads_eq (m : Memory) (a n : Nat) :
    m.memReads a n =
      if n = 0 ∨ a + n ≤ 0x1000 then .ok ((List.range n).map (fun k => m.read (a + k)))
      else .error (.memOutOfRange (max a 0x1000)) := by
  induction n generalizing a with
  | zero => simp [Memory.memReads]
  | succ n ih =>
    by_cases ha : a ≤ 0xFFF
    · simp only [Memory.memReads, m.memRead_ok ha, ih]
      by_cases hn : n = 0
      · subst hn; simp; omega
      · by_cases hl : a + 1 + n ≤ 0x1000
        · simp [show a + (n + 1) ≤ 4096 by omega, List.range_succ_eq_map, Nat.add_assoc, Nat.add_comm 1,
            Function.comp_def]
        · simp [hn, hl, show ¬ a + (n + 1) ≤ 4096 by omega, show max (a + 1) 4096 = max a 4096 by omega]
    · simp [Memory.memReads, Memory.memRead, show 0xFFF < a by omega, show ¬ a + (n + 1) ≤ 4096 by omega,
        show max a 4096 = a by omega]

/-- The fetch is the two bytes at PC and PC + 1, the first one high (20_memory.md R55, R56). -/
theorem wordOfBytes_toNat (hi lo : Byte) : (wordOfBytes hi lo).toNat = hi.toNat * 256 + lo.toNat := by
  have := hi.isLt; have := lo.isLt
  rw [wordOfBytes, BitVec.toNat_append, Nat.shiftLeft_eq, Nat.mul_comm, ← Nat.two_pow_add_eq_or_of_lt (by omega)]

/-- A fetch at or below 0xFFE reads a word (R56). -/
theorem Memory.fetch16_ok (m : Memory) {pc : Word} (h : pc.toNat ≤ 0xFFE) :
    m.fetch16 pc = .ok (wordOfBytes (m.read pc.toNat) (m.read (pc.toNat + 1))) := by
  simp [Memory.fetch16, show ¬ 0xFFF < pc.toNat + 1 by omega]

/-- A fetch at or above 0xFFF faults (R56). -/
theorem Memory.fetch16_fault (m : Memory) {pc : Word} (h : 0xFFF ≤ pc.toNat) :
    m.fetch16 pc = .error (.fetchOutOfRange pc) := by
  simp [Memory.fetch16, show 0xFFF < pc.toNat + 1 by omega]

end Sys2Proof.Machine
end

