-- ==== Sys2Proof/Laws/Graphics.lean ====
section
/-! SUPPORT. What the pixel loop of 43_graphics.md R171 does, pixel by pixel. -/

namespace Sys2Proof.Machine

/-- A framebuffer is determined by its bytes. -/
theorem framebuffer_getD (fb : Framebuffer) {j : Nat} (h : j < 256) : fb.getD j 0 = fb[j] := by
  simp [Vector.getD, h]

/-- Toggling one on-screen pixel toggles that pixel and no other. -/
theorem pixel_flipPixel (fb : Framebuffer) {x y x' y' : Nat} (hx : x < 64) (hy : y < 32) (hx' : x' < 64)
    (hy' : y' < 32) :
    pixel (flipPixel fb x y) x' y' = (pixel fb x' y' ^^ (decide (x = x') && decide (y = y'))) := by
  have hj : x / 8 + y * 8 < 256 := by omega
  have hj' : x' / 8 + y' * 8 < 256 := by omega
  unfold pixel flipPixel
  rw [framebuffer_getD _ hj', framebuffer_getD _ hj', framebuffer_getD _ hj, Vector.getElem_setIfInBounds]
  by_cases e : x / 8 + y * 8 = x' / 8 + y' * 8
  · have hyy : y = y' := by omega
    subst hyy
    have bit : (1#8 <<< (7 - x % 8)).getLsbD (7 - x' % 8) = decide (x = x') := by
      simp only [BitVec.getLsbD_shiftLeft, BitVec.getLsbD_one]
      by_cases ex : x = x'
      · subst ex; simp [show 7 - x % 8 < 8 by omega]
      · by_cases h1 : 7 - x' % 8 < 7 - x % 8
        · simp [ex, h1]
        · simp [ex, show ¬ 7 - x' % 8 - (7 - x % 8) = 0 by omega]
    simp [bit, e]
  · have : ¬ (x = x' ∧ y = y') := by rintro ⟨rfl, rfl⟩; exact e rfl
    simp only [e, if_false]
    rw [show (decide (x = x') && decide (y = y')) = false by simpa using this]; simp

/-- Sprite row `b` at x0 has a set pixel at column x (R172: bit 7 - c is column x0 + c). -/
def rowBit (b : Byte) (x0 x : Nat) : Bool := decide (x0 ≤ x) && decide (x < x0 + 8) && b.getLsbD (7 - (x - x0))

/-- One column of the loop toggles its pixel if the sprite bit is set and the pixel is on the screen. -/
theorem pixel_drawPixel (b : Byte) (x0 : Nat) {yy c x y : Nat} (p : Blit) (hy : yy < 32) (hx' : x < 64)
    (hy' : y < 32) :
    pixel (drawPixel b x0 yy c p).1 x y =
      (pixel p.1 x y ^^ (b.getLsbD (7 - c) && decide (x0 + c = x) && decide (yy = y))) := by
  unfold drawPixel
  split
  · rename_i h
    simp only [Bool.and_eq_true, decide_eq_true_eq] at h
    rw [pixel_flipPixel _ (by omega) hy hx' hy', h.1]; simp
  · rename_i h
    simp only [Bool.and_eq_true, decide_eq_true_eq, not_and] at h
    by_cases hb : b.getLsbD (7 - c) = true
    · have := h hb
      rw [show decide (x0 + c = x) = false by simp; omega]; simp
    · simp [hb]

/-- A column collides if its sprite bit is set, it is on the screen and its pixel was set (R173). -/
theorem drawPixel_collision (b : Byte) (x0 yy c : Nat) (p : Blit) :
    (drawPixel b x0 yy c p).2 = true ↔
      p.2 = true ∨ (b.getLsbD (7 - c) = true ∧ x0 + c < 64 ∧ pixel p.1 (x0 + c) yy = true) := by
  unfold drawPixel
  split
  · rename_i h
    simp only [Bool.and_eq_true, decide_eq_true_eq] at h
    simp only [Bool.or_eq_true, h.1, true_and]
    constructor
    · rintro (h' | h')
      · exact .inl h'
      · exact .inr ⟨by omega, h'⟩
    · rintro (h' | h')
      · exact .inl h'
      · exact .inr h'.2
  · rename_i h
    simp only [Bool.and_eq_true, decide_eq_true_eq, not_and] at h
    constructor
    · exact .inl
    · rintro (h' | ⟨h1, h2, -⟩)
      · exact h'
      · exact absurd (h h1) (by omega)

/-- The first `n` columns of a row. -/
theorem pixel_drawColumns (b : Byte) (x0 : Nat) {yy x y : Nat} (p : Blit) (hy : yy < 32) (hx' : x < 64) (hy' : y < 32)
    (n : Nat) (hn : n ≤ 8) :
    pixel ((List.range n).foldl (fun q c => drawPixel b x0 yy c q) p).1 x y =
      (pixel p.1 x y ^^ (decide (yy = y) && (decide (x < x0 + n) && rowBit b x0 x))) := by
  induction n with
  | zero =>
    by_cases h : x0 ≤ x
    · simp [show ¬ x < x0 by omega]
    · simp [rowBit, h]
  | succ n ih =>
    rw [List.range_succ, List.foldl_append, List.foldl_cons, List.foldl_nil, pixel_drawPixel _ _ _ hy hx' hy',
      ih (by omega)]
    by_cases hyy : yy = y
    · by_cases hc : x0 + n = x
      · subst hc
        simp [hyy, rowBit, show n < 8 by omega]
      · by_cases hlt : x < x0 + n
        · simp [hyy, hc, hlt, show x < x0 + (n + 1) by omega]
        · simp [hyy, hc, hlt, show ¬ x < x0 + (n + 1) by omega]
    · simp [hyy]

/-- One sprite row toggles exactly the on-screen pixels under its set bits (R171, R172). -/
theorem pixel_drawRow (b : Byte) (x0 : Nat) {yy x y : Nat} (p : Blit) (hy : yy < 32) (hx' : x < 64) (hy' : y < 32) :
    pixel (drawRow b x0 yy p).1 x y = (pixel p.1 x y ^^ (decide (yy = y) && rowBit b x0 x)) := by
  rw [drawRow, pixel_drawColumns _ _ _ hy hx' hy' 8 (le_refl 8)]
  congr 2
  by_cases h : x < x0 + 8
  · simp [h]
  · simp [rowBit, h]

theorem drawColumns_collision (b : Byte) (x0 : Nat) {yy : Nat} (p : Blit) (hy : yy < 32) (n : Nat) (hn : n ≤ 8) :
    ((List.range n).foldl (fun q c => drawPixel b x0 yy c q) p).2 = true ↔
      p.2 = true ∨ ∃ x, x < 64 ∧ x < x0 + n ∧ rowBit b x0 x = true ∧ pixel p.1 x yy = true := by
  induction n with
  | zero =>
    simp only [List.range_zero, List.foldl_nil, Nat.add_zero, rowBit, Bool.and_eq_true, decide_eq_true_eq]
    constructor
    · exact .inl
    · rintro (h | ⟨x, -, h1, ⟨⟨h2, -⟩, -⟩, -⟩)
      · exact h
      · omega
  | succ n ih =>
    rw [List.range_succ, List.foldl_append, List.foldl_cons, List.foldl_nil, drawPixel_collision, ih (by omega)]
    have key : x0 + n < 64 → pixel ((List.range n).foldl (fun q c => drawPixel b x0 yy c q) p).1 (x0 + n) yy =
        pixel p.1 (x0 + n) yy := by
      intro h
      rw [pixel_drawColumns _ _ _ hy h hy n (by omega)]; simp
    constructor
    · rintro ((h | ⟨x, h1, h2, h3, h4⟩) | ⟨h1, h2, h3⟩)
      · exact .inl h
      · exact .inr ⟨x, h1, by omega, h3, h4⟩
      · refine .inr ⟨x0 + n, h2, by omega, ?_, (key h2) ▸ h3⟩
        simp [rowBit, show n < 8 by omega, h1]
    · rintro (h | ⟨x, h1, h2, h3, h4⟩)
      · exact .inl (.inl h)
      · by_cases hx : x < x0 + n
        · exact .inl (.inr ⟨x, h1, hx, h3, h4⟩)
        · have hx : x = x0 + n := by omega
          subst hx
          refine .inr ⟨?_, h1, (key h1).symm ▸ h4⟩
          simpa [rowBit, show n < 8 by omega] using h3

/-- A sprite row collides exactly when one of its on-screen set pixels was set (R173). -/
theorem drawRow_collision (b : Byte) (x0 : Nat) {yy : Nat} (p : Blit) (hy : yy < 32) :
    (drawRow b x0 yy p).2 = true ↔
      p.2 = true ∨ ∃ x, x < 64 ∧ rowBit b x0 x = true ∧ pixel p.1 x yy = true := by
  rw [drawRow, drawColumns_collision _ _ _ hy 8 (le_refl 8)]
  constructor
  · rintro (h | ⟨x, h1, -, h3⟩)
    · exact .inl h
    · exact .inr ⟨x, h1, h3⟩
  · rintro (h | ⟨x, h1, h3, h4⟩)
    · exact .inl h
    · refine .inr ⟨x, h1, ?_, h3, h4⟩
      simp only [rowBit, Bool.and_eq_true, decide_eq_true_eq] at h3
      exact h3.1.2

/-- A sprite, given by its rows from row `r` on, has a set pixel at (x, y) (R171, R174). -/
def rowsCover (x0 y0 r : Nat) (bs : List Byte) (x y : Nat) : Prop :=
  ∃ k b, bs[k]? = some b ∧ (y0 + (r + k)) % 32 = y ∧ rowBit b x0 x = true

theorem rowsCover_nil (x0 y0 r x y : Nat) : ¬ rowsCover x0 y0 r [] x y := by
  rintro ⟨k, b, h, -⟩; simp at h

theorem rowsCover_cons (x0 y0 r x y : Nat) (b : Byte) (bs : List Byte) :
    rowsCover x0 y0 r (b :: bs) x y ↔
      ((y0 + r) % 32 = y ∧ rowBit b x0 x = true) ∨ rowsCover x0 y0 (r + 1) bs x y := by
  constructor
  · rintro ⟨k, d, h1, h2, h3⟩
    cases k with
    | zero => simp only [List.getElem?_cons_zero, Option.some.injEq] at h1; subst h1; exact .inl ⟨h2, h3⟩
    | succ k => exact .inr ⟨k, d, by simpa using h1, by rw [← h2]; congr 1; omega, h3⟩
  · rintro (⟨h2, h3⟩ | ⟨k, d, h1, h2, h3⟩)
    · exact ⟨0, b, rfl, h2, h3⟩
    · exact ⟨k + 1, d, by simpa using h1, by rw [← h2]; congr 1; omega, h3⟩

/-- At most 32 rows never meet the same screen row twice. -/
theorem rowsCover_other_row {x0 y0 r x : Nat} {bs : List Byte} (h : bs.length < 32) :
    ¬ rowsCover x0 y0 (r + 1) bs x ((y0 + r) % 32) := by
  rintro ⟨k, d, h1, h2, -⟩
  have : k < bs.length := by
    by_contra hk
    rw [List.getElem?_eq_none (by omega)] at h1
    simp at h1
  omega

/-- The blit toggles exactly the pixels the sprite covers (R171 to R174). -/
theorem pixel_drawRows (x0 y0 : Nat) {x y : Nat} (hx : x < 64) (hy : y < 32) (r : Nat) (bs : List Byte) (p : Blit)
    (h : bs.length ≤ 32) :
    pixel (drawRows x0 y0 r bs p).1 x y ≠ pixel p.1 x y ↔ rowsCover x0 y0 r bs x y := by
  induction bs generalizing r p with
  | nil => simp [drawRows, rowsCover_nil]
  | cons b bs ih =>
    simp only [List.length_cons] at h
    have hr : (y0 + r) % 32 < 32 := Nat.mod_lt _ (by omega)
    rw [drawRows, rowsCover_cons]
    have e := ih (r + 1) (drawRow b x0 ((y0 + r) % 32) p) (by omega)
    rw [pixel_drawRow _ _ _ hr hx hy] at e
    by_cases hrow : (y0 + r) % 32 = y
    · have hno := rowsCover_other_row (x0 := x0) (y0 := y0) (r := r) (x := x) (bs := bs) (by omega)
      rw [hrow] at hno
      have e' := mt e.1 hno
      rw [not_not] at e'
      rw [show drawRow b x0 ((y0 + r) % 32) p = drawRow b x0 y p by rw [hrow]] at e' ⊢
      rw [e']
      cases hb : rowBit b x0 x <;> cases pixel p.1 x y <;> simp [hrow, hno]
    · simpa [hrow] using e

/-- The blit collides exactly when it clears a pixel that was set before the instruction (R173). -/
theorem drawRows_collision (x0 y0 r : Nat) (bs : List Byte) (p : Blit) (h : bs.length ≤ 32) :
    (drawRows x0 y0 r bs p).2 = true ↔
      p.2 = true ∨ ∃ x y, x < 64 ∧ y < 32 ∧ rowsCover x0 y0 r bs x y ∧ pixel p.1 x y = true := by
  induction bs generalizing r p with
  | nil => simp [drawRows, rowsCover_nil]
  | cons b bs ih =>
    simp only [List.length_cons] at h
    have hr : (y0 + r) % 32 < 32 := Nat.mod_lt _ (by omega)
    rw [drawRows, ih _ _ (by omega), drawRow_collision _ _ _ hr]
    constructor
    · rintro ((h1 | ⟨x, hx, hb, hp⟩) | ⟨x, y, hx, hy, hc, hp⟩)
      · exact .inl h1
      · exact .inr ⟨x, _, hx, hr, (rowsCover_cons ..).2 (.inl ⟨rfl, hb⟩), hp⟩
      · refine .inr ⟨x, y, hx, hy, (rowsCover_cons ..).2 (.inr hc), ?_⟩
        rw [pixel_drawRow _ _ _ hr hx hy] at hp
        by_cases hrow : (y0 + r) % 32 = y
        · subst hrow; exact absurd hc (rowsCover_other_row (by omega))
        · simpa [hrow] using hp
    · rintro (h1 | ⟨x, y, hx, hy, hc, hp⟩)
      · exact .inl (.inl h1)
      · rcases (rowsCover_cons ..).1 hc with ⟨hrow, hb⟩ | hc
        · subst hrow; exact .inl (.inr ⟨x, hx, hb, hp⟩)
        · refine .inr ⟨x, y, hx, hy, hc, ?_⟩
          rw [pixel_drawRow _ _ _ hr hx hy]
          by_cases hrow : (y0 + r) % 32 = y
          · subst hrow; exact absurd hc (rowsCover_other_row (by omega))
          · simpa [hrow] using hp

end Sys2Proof.Machine
end

