-- ==== Sys2Proof/Laws/PerInstr.lean ====
section
/-! SUPPORT. Statements made per instruction. EncodesItsRow: the word of an instruction satisfies the mask and match of
its row of the opcode table (30_encoding.md R84), its row stands in the table, and it is well formed. -/

namespace Sys2Proof.Laws.EncodesItsRow

/-- The word of the instruction is one its own row selects. -/
def Statement (i : Instr) : Prop :=
  encode i &&& i.row.mask = i.row.code ∧ i.row ∈ opcodeTable ∧ i.row.wf = true

theorem cls : Statement .cls :=
  ⟨by decide, (by decide : Instr.row .cls ∈ opcodeTable),
    (by decide : (Instr.row .cls).wf = true)⟩
theorem ret : Statement .ret :=
  ⟨by decide, (by decide : Instr.row .ret ∈ opcodeTable),
    (by decide : (Instr.row .ret).wf = true)⟩
theorem jp (nnn : Imm12) : Statement (.jp nnn) :=
  ⟨(formatA_mask 0x1#4 nnn).trans rfl, (by decide : Instr.row (.jp 0) ∈ opcodeTable),
    (by decide : (Instr.row (.jp 0)).wf = true)⟩
theorem call (nnn : Imm12) : Statement (.call nnn) :=
  ⟨(formatA_mask 0x2#4 nnn).trans rfl, (by decide : Instr.row (.call 0) ∈ opcodeTable),
    (by decide : (Instr.row (.call 0)).wf = true)⟩
theorem seVxNn (x : Reg) (nn : Byte) : Statement (.seVxNn x nn) :=
  ⟨(formatRI_mask 0x3#4 x nn).trans rfl, (by decide : Instr.row (.seVxNn 0 0) ∈ opcodeTable),
    (by decide : (Instr.row (.seVxNn 0 0)).wf = true)⟩
theorem sneVxNn (x : Reg) (nn : Byte) : Statement (.sneVxNn x nn) :=
  ⟨(formatRI_mask 0x4#4 x nn).trans rfl, (by decide : Instr.row (.sneVxNn 0 0) ∈ opcodeTable),
    (by decide : (Instr.row (.sneVxNn 0 0)).wf = true)⟩
theorem seVxVy (x y : Reg) : Statement (.seVxVy x y) :=
  ⟨(formatRR_mask 0x5#4 x y 0x0#4).trans rfl, (by decide : Instr.row (.seVxVy 0 0) ∈ opcodeTable),
    (by decide : (Instr.row (.seVxVy 0 0)).wf = true)⟩
theorem ldVxNn (x : Reg) (nn : Byte) : Statement (.ldVxNn x nn) :=
  ⟨(formatRI_mask 0x6#4 x nn).trans rfl, (by decide : Instr.row (.ldVxNn 0 0) ∈ opcodeTable),
    (by decide : (Instr.row (.ldVxNn 0 0)).wf = true)⟩
theorem addVxNn (x : Reg) (nn : Byte) : Statement (.addVxNn x nn) :=
  ⟨(formatRI_mask 0x7#4 x nn).trans rfl, (by decide : Instr.row (.addVxNn 0 0) ∈ opcodeTable),
    (by decide : (Instr.row (.addVxNn 0 0)).wf = true)⟩
theorem ldVxVy (x y : Reg) : Statement (.ldVxVy x y) :=
  ⟨(formatRR_mask 0x8#4 x y 0x0#4).trans rfl, (by decide : Instr.row (.ldVxVy 0 0) ∈ opcodeTable),
    (by decide : (Instr.row (.ldVxVy 0 0)).wf = true)⟩
theorem or (x y : Reg) : Statement (.or x y) :=
  ⟨(formatRR_mask 0x8#4 x y 0x1#4).trans rfl, (by decide : Instr.row (.or 0 0) ∈ opcodeTable),
    (by decide : (Instr.row (.or 0 0)).wf = true)⟩
theorem and (x y : Reg) : Statement (.and x y) :=
  ⟨(formatRR_mask 0x8#4 x y 0x2#4).trans rfl, (by decide : Instr.row (.and 0 0) ∈ opcodeTable),
    (by decide : (Instr.row (.and 0 0)).wf = true)⟩
theorem xor (x y : Reg) : Statement (.xor x y) :=
  ⟨(formatRR_mask 0x8#4 x y 0x3#4).trans rfl, (by decide : Instr.row (.xor 0 0) ∈ opcodeTable),
    (by decide : (Instr.row (.xor 0 0)).wf = true)⟩
theorem addVxVy (x y : Reg) : Statement (.addVxVy x y) :=
  ⟨(formatRR_mask 0x8#4 x y 0x4#4).trans rfl, (by decide : Instr.row (.addVxVy 0 0) ∈ opcodeTable),
    (by decide : (Instr.row (.addVxVy 0 0)).wf = true)⟩
theorem sub (x y : Reg) : Statement (.sub x y) :=
  ⟨(formatRR_mask 0x8#4 x y 0x5#4).trans rfl, (by decide : Instr.row (.sub 0 0) ∈ opcodeTable),
    (by decide : (Instr.row (.sub 0 0)).wf = true)⟩
theorem shr (x y : Reg) : Statement (.shr x y) :=
  ⟨(formatRR_mask 0x8#4 x y 0x6#4).trans rfl, (by decide : Instr.row (.shr 0 0) ∈ opcodeTable),
    (by decide : (Instr.row (.shr 0 0)).wf = true)⟩
theorem subn (x y : Reg) : Statement (.subn x y) :=
  ⟨(formatRR_mask 0x8#4 x y 0x7#4).trans rfl, (by decide : Instr.row (.subn 0 0) ∈ opcodeTable),
    (by decide : (Instr.row (.subn 0 0)).wf = true)⟩
theorem shl (x y : Reg) : Statement (.shl x y) :=
  ⟨(formatRR_mask 0x8#4 x y 0xE#4).trans rfl, (by decide : Instr.row (.shl 0 0) ∈ opcodeTable),
    (by decide : (Instr.row (.shl 0 0)).wf = true)⟩
theorem sneVxVy (x y : Reg) : Statement (.sneVxVy x y) :=
  ⟨(formatRR_mask 0x9#4 x y 0x0#4).trans rfl, (by decide : Instr.row (.sneVxVy 0 0) ∈ opcodeTable),
    (by decide : (Instr.row (.sneVxVy 0 0)).wf = true)⟩
theorem ldINnn (nnn : Imm12) : Statement (.ldINnn nnn) :=
  ⟨(formatA_mask 0xA#4 nnn).trans rfl, (by decide : Instr.row (.ldINnn 0) ∈ opcodeTable),
    (by decide : (Instr.row (.ldINnn 0)).wf = true)⟩
theorem jpV0Nnn (nnn : Imm12) : Statement (.jpV0Nnn nnn) :=
  ⟨(formatA_mask 0xB#4 nnn).trans rfl, (by decide : Instr.row (.jpV0Nnn 0) ∈ opcodeTable),
    (by decide : (Instr.row (.jpV0Nnn 0)).wf = true)⟩
theorem rnd (x : Reg) (nn : Byte) : Statement (.rnd x nn) :=
  ⟨(formatRI_mask 0xC#4 x nn).trans rfl, (by decide : Instr.row (.rnd 0 0) ∈ opcodeTable),
    (by decide : (Instr.row (.rnd 0 0)).wf = true)⟩
theorem drw (x y : Reg) (n : BitVec 4) : Statement (.drw x y n) :=
  ⟨(formatRRN_mask 0xD#4 x y n).trans rfl, (by decide : Instr.row (.drw 0 0 0) ∈ opcodeTable),
    (by decide : (Instr.row (.drw 0 0 0)).wf = true)⟩
theorem skp (x : Reg) : Statement (.skp x) :=
  ⟨(formatR_mask 0xE#4 x 0x9E#8).trans rfl, (by decide : Instr.row (.skp 0) ∈ opcodeTable),
    (by decide : (Instr.row (.skp 0)).wf = true)⟩
theorem sknp (x : Reg) : Statement (.sknp x) :=
  ⟨(formatR_mask 0xE#4 x 0xA1#8).trans rfl, (by decide : Instr.row (.sknp 0) ∈ opcodeTable),
    (by decide : (Instr.row (.sknp 0)).wf = true)⟩
theorem ldVxDt (x : Reg) : Statement (.ldVxDt x) :=
  ⟨(formatR_mask 0xF#4 x 0x07#8).trans rfl, (by decide : Instr.row (.ldVxDt 0) ∈ opcodeTable),
    (by decide : (Instr.row (.ldVxDt 0)).wf = true)⟩
theorem ldVxK (x : Reg) : Statement (.ldVxK x) :=
  ⟨(formatR_mask 0xF#4 x 0x0A#8).trans rfl, (by decide : Instr.row (.ldVxK 0) ∈ opcodeTable),
    (by decide : (Instr.row (.ldVxK 0)).wf = true)⟩
theorem ldDtVx (x : Reg) : Statement (.ldDtVx x) :=
  ⟨(formatR_mask 0xF#4 x 0x15#8).trans rfl, (by decide : Instr.row (.ldDtVx 0) ∈ opcodeTable),
    (by decide : (Instr.row (.ldDtVx 0)).wf = true)⟩
theorem ldStVx (x : Reg) : Statement (.ldStVx x) :=
  ⟨(formatR_mask 0xF#4 x 0x18#8).trans rfl, (by decide : Instr.row (.ldStVx 0) ∈ opcodeTable),
    (by decide : (Instr.row (.ldStVx 0)).wf = true)⟩
theorem addIVx (x : Reg) : Statement (.addIVx x) :=
  ⟨(formatR_mask 0xF#4 x 0x1E#8).trans rfl, (by decide : Instr.row (.addIVx 0) ∈ opcodeTable),
    (by decide : (Instr.row (.addIVx 0)).wf = true)⟩
theorem ldFVx (x : Reg) : Statement (.ldFVx x) :=
  ⟨(formatR_mask 0xF#4 x 0x29#8).trans rfl, (by decide : Instr.row (.ldFVx 0) ∈ opcodeTable),
    (by decide : (Instr.row (.ldFVx 0)).wf = true)⟩
theorem ldBVx (x : Reg) : Statement (.ldBVx x) :=
  ⟨(formatR_mask 0xF#4 x 0x33#8).trans rfl, (by decide : Instr.row (.ldBVx 0) ∈ opcodeTable),
    (by decide : (Instr.row (.ldBVx 0)).wf = true)⟩
theorem ldMemVx (x : Reg) : Statement (.ldMemVx x) :=
  ⟨(formatR_mask 0xF#4 x 0x55#8).trans rfl, (by decide : Instr.row (.ldMemVx 0) ∈ opcodeTable),
    (by decide : (Instr.row (.ldMemVx 0)).wf = true)⟩
theorem ldVxMem (x : Reg) : Statement (.ldVxMem x) :=
  ⟨(formatR_mask 0xF#4 x 0x65#8).trans rfl, (by decide : Instr.row (.ldVxMem 0) ∈ opcodeTable),
    (by decide : (Instr.row (.ldVxMem 0)).wf = true)⟩

end Sys2Proof.Laws.EncodesItsRow
end

