-- ==== Sys2Proof/Laws/Step.lean ====
section
/-! SUPPORT. What one event can do: the cases of a STEP, of the end of a STEP, and of the other events; and the range
forms of the instructions that access memory. -/

namespace Sys2Proof.Machine

/-! ### The end of a STEP -/

/-- A STEP that raised no fault is counted (10_state.md R32). -/
theorem State.retire_running {t : State} (h : t.fault = none) :
    t.retire = { t with cycles := t.cycles + 1, env := { t.env with rnd := none } } := by
  simp [State.retire, State.halted, h, State.setRnd, State.countCycle]

/-- A STEP that raised a fault is not. -/
theorem State.retire_faulted {t : State} {f : Fault} (h : t.fault = some f) :
    t.retire = { t with env := { t.env with rnd := none } } := by
  simp [State.retire, State.halted, h, State.setRnd]

@[simp] theorem State.retire_fault (t : State) : t.retire.fault = t.fault := by
  unfold State.retire; split <;> rfl

/-- Only `cycles` and the payload can change at the end of a STEP. -/
theorem State.retire_eq (t : State) :
    t.retire = { t with cycles := t.retire.cycles, env := { t.env with rnd := none } } := by
  unfold State.retire; split <;> rfl

/-! ### A STEP -/

/-- A halted core executes nothing (60_exceptions.md R212). -/
theorem cycle_halted {s : State} {f : Fault} (h : s.fault = some f) (r : Option Byte) : cycle r s = .next s := by
  simp [cycle, State.halted, h]

/-- A STEP whose fetch is out of range raises that fault and is over (30_encoding.md R88). -/
theorem cycle_fetch_fault {s : State} (h : s.fault = none) (hp : 0xFFF ≤ s.pc.toNat) (r : Option Byte) :
    cycle r s = .next ((s.setRnd r).raise (.fetchOutOfRange s.pc)).retire := by
  simp [cycle, State.halted, h, Memory.fetch16_fault _ hp, retireOutcome]

/-- A STEP that fetches a word executes it (R88). -/
theorem cycle_fetched {s : State} {w : Word} (h : s.fault = none) (hw : s.mem.fetch16 s.pc = .ok w)
    (r : Option Byte) : cycle r s = retireOutcome (executeWord w (s.setRnd r)) := by
  simp [cycle, State.halted, h, hw]

/-- A word that is an instruction is executed as it (R85). -/
theorem executeWord_instr {w : Word} {i : Instr} (h : decodeWord w = .ok i) (s : State) :
    executeWord w s = exec i s := by
  simp [executeWord, h]

/-- A word that is none is reported and stepped over (R87). -/
theorem executeWord_unrecognized {w : Word} {e : Reject} (h : decodeWord w = .error e) (s : State) :
    executeWord w s = .next (s.reportWord w) := by
  simp [executeWord, h]

/-- Where no event waits the next one is a STEP (log 3). -/
theorem step_of_empty {s : State} (h : s.env.schedule = []) : step s = cycle none s := by
  simp [step, runNext, h]

/-- Where an event waits it is the next one. -/
theorem step_of_event {s : State} {e : Event} {es : List Event} (h : s.env.schedule = e :: es) :
    step s = handle e (s.setSchedule es) := by
  simp [step, runNext, h]

/-- A state whose next event is a STEP takes that STEP with the rest of the schedule waiting (log 3). -/
theorem step_of_nextIsStep {s : State} (h : s.nextIsStep) :
    ∃ r, step s = cycle r (s.setSchedule s.env.schedule.tail) := by
  rcases h with h | ⟨b, es, h⟩
  · exact ⟨none, by rw [step_of_empty h, h, List.tail_nil, State.setSchedule, ← h]⟩
  · exact ⟨some b, by rw [step_of_event h, h]; rfl⟩

/-! ### Instructions that access memory -/

/-- The frame of an access range: what the writing instructions do, or the fault they raise (42_index_memory.md R153,
R154). -/
theorem attempt_memWrites (s : State) (bs : List Byte) (hb : bs ≠ []) (k : Memory → State) :
    s.attempt (Memory.memWrites (s.dataAddress 0) bs s.mem) k =
      if s.i.toNat + bs.length ≤ 0x1000 then k (Memory.writeAll s.i.toNat bs s.mem)
      else s.raise (.memOutOfRange (max s.i.toNat 0x1000)) := by
  rw [show s.dataAddress 0 = s.i.toNat from rfl, Memory.memWrites_eq]
  simp only [hb, false_or]
  split_ifs <;> rfl

/-- What the reading instructions do, or the fault they raise (R155, 43_graphics.md R171). -/
theorem attempt_memReads (s : State) (n : Nat) (k : List Byte → State) :
    s.attempt (s.mem.memReads (s.dataAddress 0) n) k =
      if n = 0 ∨ s.i.toNat + n ≤ 0x1000 then k ((List.range n).map fun j => s.mem.read (s.i.toNat + j))
      else s.raise (.memOutOfRange (max s.i.toNat 0x1000)) := by
  rw [show s.dataAddress 0 = s.i.toNat from rfl, Memory.memReads_eq]
  split_ifs <;> rfl

end Sys2Proof.Machine
end

