-- ==== Sys2Proof/Tests/Slice0.lean ====
section
/-! SUPPORT. The model's own tests: the well-formedness checks on ill-formed terms, the decoding of words written out
from the formats and patterns of spec/30_encoding.md, one step of each instruction against the vectors of
spec/95_test_vectors.md (every expected value is that file's), and a witness for the hypotheses of each statement. -/

namespace Sys2Proof.Tests

open Sys2Proof Sys2Proof.Machine

-- One theorem at a time: the kernel's evaluations beside one another ask for more threads than a limited sandbox has.
set_option Elab.async false

/-! ## Helpers -/

/-- The state after INIT with a word at 0x200 (the start of a vector of 95_test_vectors.md). -/
def start (w : Nat) : State := State.reset.withFetchWord 16 w

/-- One step from `s` answers a next state that passes a check. -/
def after (s : State) (p : State → Bool) : Bool :=
  match step s with
  | .next t => p t
  | _ => false

/-- `mem[a] <- b`. -/
def poke (a : Nat) (b : Byte) (s : State) : State := s.setMem (s.mem.write a b)

/-- `fb[j] <- b`. -/
def paint (j : Nat) (b : Byte) (s : State) : State := { s with fb := s.fb.setIfInBounds j b }

/-- `SP <- n`, the return addresses unchanged. -/
def depth (n : Fin 17) (s : State) : State := { s with sp := n }

/-- A halted state. -/
def halted : State := { State.reset with fault := some (.stackOverflow 0x200) }

/-- The state after INIT with events waiting. -/
def waiting (es : List Event) : State := State.reset.setSchedule es

/-! ## Well-formedness: each check refuses an ill-formed term and accepts the table -/

theorem smoke_code_outside_its_mask : OpRow.codeUnderMask ⟨"JP", .A, 0xF000#16, 0x1001#16⟩ = false := by decide
theorem smoke_mask_of_another_format : OpRow.maskOfFormat ⟨"JP", .A, 0xF00F#16, 0x1000#16⟩ = false := by decide
theorem smoke_row_with_a_bad_code : OpRow.wf ⟨"SKP", .R, 0xF0FF#16, 0xE19E#16⟩ = false := by decide
theorem smoke_overlapping_rows :
    rowsDisjoint [⟨"OR", .RR, 0xF00F#16, 0x8001#16⟩, ⟨"ALU", .A, 0xF000#16, 0x8000#16⟩] = false := by decide
theorem smoke_table_with_a_row_twice : OpRow.tableWf [Instr.row .cls, Instr.row .ret, Instr.row .cls] = false := by
  decide
theorem smoke_opcode_table_accepted : OpRow.tableWf opcodeTable = true := by decide
theorem smoke_program_too_long : programFits (List.replicate 0xE01 0x02) = false := by
  rw [programFits, List.length_replicate]; rfl
theorem smoke_program_of_full_length : programFits (List.replicate 0xE00 0x01) = true := by
  rw [programFits, List.length_replicate]; rfl
theorem smoke_memory_out_of_order :
    ¬ Memory.wf { font := Config.defaultFont, cells := [(0x301, 1), (0x300, 1)] } := by decide
theorem smoke_memory_listing_background :
    ¬ Memory.wf { font := Config.defaultFont, cells := [(0x300, 0)] } := by decide
theorem smoke_memory_beyond_the_end :
    ¬ Memory.wf { font := Config.defaultFont, cells := [(0x1000, 1)] } := by decide
theorem smoke_memory_accepted :
    Memory.wf { font := Config.defaultFont, cells := [(0x000, 1), (0xFFF, 1)] } := by decide

/-! ## Decoding: each word is written digit by digit from its pattern in R84, X = 0xA, Y = 0x5, N = 0x3, NN = 0x4C,
NNN = 0x3C7 -/

theorem decode_cls : decodeWord 0b0000000011100000 = .ok .cls := by decide
theorem decode_ret : decodeWord 0b0000000011101110 = .ok .ret := by decide
theorem decode_jp : decodeWord 0b0001001111000111 = .ok (.jp 0x3C7) := by decide
theorem decode_call : decodeWord 0b0010001111000111 = .ok (.call 0x3C7) := by decide
theorem decode_se_vx_nn : decodeWord 0b0011101001001100 = .ok (.seVxNn 0xA 0x4C) := by decide
theorem decode_sne_vx_nn : decodeWord 0b0100101001001100 = .ok (.sneVxNn 0xA 0x4C) := by decide
theorem decode_se_vx_vy : decodeWord 0b0101101001010000 = .ok (.seVxVy 0xA 0x5) := by decide
theorem decode_ld_vx_nn : decodeWord 0b0110101001001100 = .ok (.ldVxNn 0xA 0x4C) := by decide
theorem decode_add_vx_nn : decodeWord 0b0111101001001100 = .ok (.addVxNn 0xA 0x4C) := by decide
theorem decode_ld_vx_vy : decodeWord 0b1000101001010000 = .ok (.ldVxVy 0xA 0x5) := by decide
theorem decode_or : decodeWord 0b1000101001010001 = .ok (.or 0xA 0x5) := by decide
theorem decode_and : decodeWord 0b1000101001010010 = .ok (.and 0xA 0x5) := by decide
theorem decode_xor : decodeWord 0b1000101001010011 = .ok (.xor 0xA 0x5) := by decide
theorem decode_add_vx_vy : decodeWord 0b1000101001010100 = .ok (.addVxVy 0xA 0x5) := by decide
theorem decode_sub : decodeWord 0b1000101001010101 = .ok (.sub 0xA 0x5) := by decide
theorem decode_shr : decodeWord 0b1000101001010110 = .ok (.shr 0xA 0x5) := by decide
theorem decode_subn : decodeWord 0b1000101001010111 = .ok (.subn 0xA 0x5) := by decide
theorem decode_shl : decodeWord 0b1000101001011110 = .ok (.shl 0xA 0x5) := by decide
theorem decode_sne_vx_vy : decodeWord 0b1001101001010000 = .ok (.sneVxVy 0xA 0x5) := by decide
theorem decode_ld_i_nnn : decodeWord 0b1010001111000111 = .ok (.ldINnn 0x3C7) := by decide
theorem decode_jp_v0_nnn : decodeWord 0b1011001111000111 = .ok (.jpV0Nnn 0x3C7) := by decide
theorem decode_rnd : decodeWord 0b1100101001001100 = .ok (.rnd 0xA 0x4C) := by decide
theorem decode_drw : decodeWord 0b1101101001010011 = .ok (.drw 0xA 0x5 0x3) := by decide
theorem decode_skp : decodeWord 0b1110101010011110 = .ok (.skp 0xA) := by decide
theorem decode_sknp : decodeWord 0b1110101010100001 = .ok (.sknp 0xA) := by decide
theorem decode_ld_vx_dt : decodeWord 0b1111101000000111 = .ok (.ldVxDt 0xA) := by decide
theorem decode_ld_vx_k : decodeWord 0b1111101000001010 = .ok (.ldVxK 0xA) := by decide
theorem decode_ld_dt_vx : decodeWord 0b1111101000010101 = .ok (.ldDtVx 0xA) := by decide
theorem decode_ld_st_vx : decodeWord 0b1111101000011000 = .ok (.ldStVx 0xA) := by decide
theorem decode_add_i_vx : decodeWord 0b1111101000011110 = .ok (.addIVx 0xA) := by decide
theorem decode_ld_f_vx : decodeWord 0b1111101000101001 = .ok (.ldFVx 0xA) := by decide
theorem decode_ld_b_vx : decodeWord 0b1111101000110011 = .ok (.ldBVx 0xA) := by decide
theorem decode_ld_mem_vx : decodeWord 0b1111101001010101 = .ok (.ldMemVx 0xA) := by decide
theorem decode_ld_vx_mem : decodeWord 0b1111101001100101 = .ok (.ldVxMem 0xA) := by decide

/-- The bytes of the listing of R84's convention: the first byte is the high byte; what follows is left. -/
theorem decode_bytes_in_memory_order : decodeBytes [0xA3, 0x00, 0x12] = .ok (.ldINnn 0x300, [0x12]) := by decide
theorem decode_bytes_truncated : decodeBytes [0xA3] = .error .truncated := by decide
theorem decode_table_word : decodeTableWord 16 0x8EF4 = some (.addVxVy 0xE 0xF) := by decide

/-- The nearest neighbours of 95_test_vectors.md part 2.6: none of these words is an instruction. -/
theorem decode_unrecognized_neighbours :
    ([0x0000, 0x0123, 0x00E1, 0x01E0, 0x5121, 0x8128, 0x812F, 0x9121, 0xE19F, 0xE1A0, 0xF108, 0xF154, 0xFFFF] :
      List Word).all (fun w => decide (decodeWord w = .error (.unrecognized w))) = true := by decide

/-! ## Control flow (vectors 2.1, S6) -/

theorem test_jp : after (start 0x1ABC) (fun t => t.pc == 0x0ABC && t.cycles == 1) = true := by decide +kernel
theorem test_call : after (start 0x2ABC) (fun t => t.stack[0] == 0x0202 && t.sp == 1 && t.pc == 0x0ABC) = true := by
  decide +kernel
theorem test_call_full :
    after (depth 16 (start 0x2300)) (fun t => t.fault == some (.stackOverflow 0x200) && t.sp == 16 && t.cycles == 0)
      = true := by decide +kernel
theorem test_ret :
    after (depth 1 { start 0x00EE with stack := (Vector.replicate 16 0).set 0 0x0302 })
      (fun t => t.sp == 0 && t.pc == 0x0302 && t.stack[0] == 0x0302) = true := by decide +kernel
theorem test_ret_empty : after (start 0x00EE) (fun t => t.fault == some (.stackUnderflow 0x200)) = true := by
  decide +kernel
theorem test_jp_v0 : after ((start 0xBFFF).setV 0 0xFF) (fun t => t.pc == 0x10FE) = true := by decide +kernel
theorem test_se_vx_nn_taken : after ((start 0x3A42).setV 0xA 0x42) (fun t => t.pc == 0x204) = true := by
  decide +kernel
theorem test_se_vx_nn : after ((start 0x3A42).setV 0xA 0x43) (fun t => t.pc == 0x202) = true := by decide +kernel
theorem test_sne_vx_nn_taken : after ((start 0x4A42).setV 0xA 0x43) (fun t => t.pc == 0x204) = true := by
  decide +kernel
theorem test_se_vx_vy_taken :
    after (((start 0x5120).setV 1 7).setV 2 7) (fun t => t.pc == 0x204) = true := by decide +kernel
theorem test_sne_vx_vy_taken :
    after (((start 0x9120).setV 1 7).setV 2 8) (fun t => t.pc == 0x204) = true := by decide +kernel

/-! ## Loads and arithmetic (vectors 2.2, S1, S2) -/

theorem test_ld_vx_nn : after (start 0x6F07) (fun t => t.getV 0xF == 0x07 && t.pc == 0x202) = true := by
  decide +kernel
theorem test_add_vx_nn : after ((start 0x70FF).setV 0 0x05) (fun t => t.getV 0 == 0x04 && t.getV 0xF == 0) = true := by
  decide +kernel
theorem test_ld_vx_vy : after ((start 0x8EF0).setV 0xF 1) (fun t => t.getV 0xE == 1) = true := by decide +kernel
theorem test_or :
    after ((((start 0x8121).setV 1 0xF0).setV 2 0x0F).setV 0xF 1) (fun t => t.getV 1 == 0xFF && t.getV 0xF == 1)
      = true := by decide +kernel
theorem test_and : after (((start 0x8122).setV 1 0xF3).setV 2 0x3F) (fun t => t.getV 1 == 0x33) = true := by
  decide +kernel
theorem test_xor : after (((start 0x8123).setV 1 0xFF).setV 2 0x0F) (fun t => t.getV 1 == 0xF0) = true := by
  decide +kernel
theorem test_add_carry :
    after (((start 0x8014).setV 0 0xFF).setV 1 1) (fun t => t.getV 0 == 0 && t.getV 0xF == 1) = true := by
  decide +kernel
theorem test_add_into_vf : after (((start 0x8F14).setV 0xF 0xFF).setV 1 2) (fun t => t.getV 0xF == 3) = true := by
  decide +kernel
theorem test_sub_equal :
    after (((start 0x8015).setV 0 7).setV 1 7) (fun t => t.getV 0 == 0 && t.getV 0xF == 0) = true := by decide +kernel
theorem test_sub_from_vf :
    after (((start 0x80F5).setV 0 5).setV 0xF 3) (fun t => t.getV 0 == 4 && t.getV 0xF == 1) = true := by
  decide +kernel
theorem test_subn :
    after (((start 0x8017).setV 0 5).setV 1 2) (fun t => t.getV 0 == 0xFD && t.getV 0xF == 1) = true := by
  decide +kernel
theorem test_subn_from_vf :
    after (((start 0x80F7).setV 0 5).setV 0xF 3) (fun t => t.getV 0 == 0xFC && t.getV 0xF == 1) = true := by
  decide +kernel
theorem test_shr :
    after (((start 0x8016).setV 0 5).setV 1 0xAA)
      (fun t => t.getV 0 == 2 && t.getV 0xF == 1 && t.getV 1 == 0xAA) = true := by decide +kernel
theorem test_shr_vf : after ((start 0x8F16).setV 0xF 3) (fun t => t.getV 0xF == 0) = true := by decide +kernel
theorem test_shl :
    after (((start 0x801E).setV 0 0x81).setV 1 0xAA)
      (fun t => t.getV 0 == 2 && t.getV 0xF == 1 && t.getV 1 == 0xAA) = true := by decide +kernel
theorem test_shl_vf : after ((start 0x8F1E).setV 0xF 0x80) (fun t => t.getV 0xF == 2) = true := by decide +kernel

/-! ## Index and memory (vectors 2.3, S3) -/

theorem test_ld_i : after (start 0xAFFF) (fun t => t.i == 0x0FFF) = true := by decide +kernel
theorem test_add_i_above :
    after (((start 0xF11E).setI 0x0FFE).setV 1 3) (fun t => t.i == 0x1001 && t.getV 0xF == 1) = true := by
  decide +kernel
theorem test_add_i_wraps :
    after (((start 0xF11E).setI 0xFF01).setV 1 0xFF) (fun t => t.i == 0 && t.getV 0xF == 0) = true := by
  decide +kernel
theorem test_ld_f : after ((start 0xF029).setV 0 0xFF) (fun t => t.i == 0x04FB) = true := by decide +kernel
theorem test_bcd_last_i :
    after (((start 0xF033).setI 0xFFD).setV 0 157)
      (fun t => t.mem.read 0xFFD == 1 && t.mem.read 0xFFE == 5 && t.mem.read 0xFFF == 7) = true := by decide +kernel
theorem test_bcd_past_the_end :
    after (((start 0xF033).setI 0xFFE).setV 0 157)
      (fun t => t.fault == some (.memOutOfRange 0x1000) && t.mem.read 0xFFE == 0 && t.pc == 0x200) = true := by
  decide +kernel
theorem test_store :
    after (((((start 0xF255).setI 0x300).setV 0 0x11).setV 1 0x22).setV 2 0x33)
      (fun t => t.mem.read 0x300 == 0x11 && t.mem.read 0x302 == 0x33 && t.mem.read 0x303 == 0 && t.i == 0x300)
      = true := by decide +kernel
theorem test_store_past_the_end :
    after (((start 0xFF55).setI 0xFF1).setV 0 9)
      (fun t => t.fault == some (.memOutOfRange 0x1000) && t.mem.read 0xFF1 == 0) = true := by decide +kernel
theorem test_load :
    after (poke 0x300 1 (poke 0x301 5 (poke 0x302 7 ((start 0xF265).setI 0x300))))
      (fun t => t.getV 0 == 1 && t.getV 1 == 5 && t.getV 2 == 7 && t.i == 0x300) = true := by decide +kernel
theorem test_load_past_the_end :
    after ((start 0xF065).setI 0x1000) (fun t => t.fault == some (.memOutOfRange 0x1000)) = true := by decide +kernel

/-! ## Graphics (vectors 2.4) -/

theorem test_cls :
    after (paint 0 0xFF (paint 255 1 ((start 0x00E0).setV 0xF 7)))
      (fun t => t.fb[0] == 0 && t.fb[255] == 0 && t.dirty && t.getV 0xF == 7) = true := by decide +kernel
theorem test_drw_collision :
    after (paint 8 0x10 (poke 0x300 0xC3 ((((start 0xD011).setI 0x300).setV 0 2).setV 1 1)))
      (fun t => t.fb[8] == 0x20 && t.fb[9] == 0xC0 && t.getV 0xF == 1) = true := by decide +kernel
theorem test_drw_clips_and_wraps :
    after (poke 0x300 0xFF (poke 0x301 0x81 ((((start 0xD012).setI 0x300).setV 0 60).setV 1 31)))
      (fun t => t.fb[255] == 0x0F && t.fb[7] == 0x08 && t.fb[8] == 0 && t.fb[0] == 0 && t.getV 0xF == 0) = true := by
  decide +kernel

/-! ## Random, keypad, timers (vectors 2.5, S5) -/

theorem test_rnd : after ((start 0xC10F).setSchedule [.step 0xA7]) (fun t => t.getV 1 == 7) = true := by decide +kernel
theorem test_skp : after (((start 0xE09E).setV 0 5).setKey 5 true) (fun t => t.pc == 0x204) = true := by decide +kernel
theorem test_skp_no_such_key :
    after ((start 0xE09E).setV 0 0x10) (fun t => t.fault == some (.keyIndexOutOfRange 0x10)) = true := by
  decide +kernel
theorem test_sknp : after (((start 0xE0A1).setV 0 5).setKey 5 true) (fun t => t.pc == 0x202) = true := by
  decide +kernel
theorem test_ld_vx_dt : after ((start 0xF107).setDt 5) (fun t => t.getV 1 == 5) = true := by decide +kernel
theorem test_ld_vx_k_lowest :
    after ((((start 0xF30A).setKey 2 true).setKey 9 true).setKey 15 true) (fun t => t.getV 3 == 2 && t.pc == 0x202)
      = true := by decide +kernel
theorem test_ld_vx_k_waits : after (start 0xF30A) (fun t => t.pc == 0x200 && t.cycles == 1 && t.getV 3 == 0) = true :=
  by decide +kernel
theorem test_ld_dt_vx : after ((start 0xF015).setV 0 5) (fun t => t.dt == 5) = true := by decide +kernel
theorem test_ld_st_vx :
    after (((start 0xF018).setV 0 0).setSt 3) (fun t => t.st == 0 && t.env.history == []) = true := by decide +kernel

/-! ## Fetch, faults, events (vectors 2.1, 2.6, 2.7, S7, S8) -/

theorem test_odd_pc :
    after (poke 0x203 0x60 (poke 0x204 0x2A (State.reset.setPc 0x203))) (fun t => t.getV 0 == 0x2A && t.pc == 0x205)
      = true := by decide +kernel
theorem test_fetch_past_the_end :
    after (State.reset.setPc 0xFFF)
      (fun t => t.fault == some (.fetchOutOfRange 0xFFF) && t.pc == 0xFFF && t.cycles == 0) = true := by decide +kernel
theorem test_last_fetch_reports :
    after (State.reset.setPc 0xFFE)
      (fun t => t.env.history == [.report 0xFFE 0] && t.pc == 0x1000 && t.fault == none) = true := by decide +kernel
theorem test_halted_ignores_tick :
    after ((halted.setSt 1).setSchedule [.tick]) (fun t => t.st == 1 && t.env.history == []) = true := by decide +kernel
theorem test_tick_beeps :
    after ((waiting [.tick]).setSt 1) (fun t => t.st == 0 && t.env.history == [.beep]) = true := by decide +kernel
theorem test_tick_at_zero : after (waiting [.tick]) (fun t => t.st == 0 && t.env.history == []) = true := by
  decide +kernel
theorem test_load_and_init :
    after (waiting [.load [0x12, 0x00], .init])
      (fun t => t.mem.read 0x200 == 0x12 && t.env.history == [.loadOk] &&
        after t (fun u => u.mem.read 0x200 == 0 && u.mem.read 0x032 == 0xF0)) = true := by decide +kernel
theorem test_get_pixel :
    after (paint 73 0x78 (waiting [.getPixel 12 9])) (fun t => t.env.history == [.pixel true]) = true := by
  decide +kernel

/-! ## Witnesses: concrete states and operands that meet the hypotheses of each statement, clause by clause -/

/-- One instruction of each of the first 18 rows. -/
def firstRows : List Instr :=
  [.cls, .ret, .jp 0xFFF, .call 0xFFF, .seVxNn 0 0, .sneVxNn 0 0, .seVxVy 0 1, .ldVxNn 0xF 0xFF, .addVxNn 0xF 0xFF,
   .ldVxVy 0 0xF, .or 0 1, .and 0 1, .xor 0 1, .addVxVy 0xF 0xF, .sub 0xF 0, .shr 0xF 0, .subn 0 0xF, .shl 0xF 0]
/-- One instruction of each of the last 16 rows. -/
def lastRows : List Instr :=
  [.sneVxVy 0 1, .ldINnn 0xFFF, .jpV0Nnn 0xFFF, .rnd 0xF 0xFF, .drw 0xF 0 0xF, .skp 0, .sknp 0, .ldVxDt 0, .ldVxK 0,
   .ldDtVx 0, .ldStVx 0, .addIVx 0xF, .ldFVx 0xF, .ldBVx 0, .ldMemVx 0xF, .ldVxMem 0xF]

/-- `exec i s` answers a next state in which no fault is set. -/
def completes (i : Instr) (s : State) : Bool :=
  match exec i s with
  | .next t => t.fault == none
  | _ => false

theorem witness_one_of_each_row : (firstRows ++ lastRows).map Instr.row = opcodeTable := rfl
/-- InstructionsChangeOnlyTheirEffects, RegistersChangeOnlyAsDestinationOrFlag, NextPcIsOneOfTheListedWays,
FaultsAreRaisedExactlyAsListed (first clause): an execution of every instruction from a running state (one address is stacked). -/
theorem witness_every_instruction_completes :
    (firstRows ++ lastRows).all (fun i => completes i (depth 1 State.reset)) = true := by decide +kernel
/-- The same statements, the instructions that raise a fault: rows 2 to 5 of R211. -/
theorem witness_instructions_fault :
    completes (.ldBVx 0) (State.reset.setI 0xFFE) = false ∧ completes (.ldMemVx 0xF) (State.reset.setI 0xFF1) = false ∧
    completes (.ldVxMem 0) (State.reset.setI 0x1000) = false ∧ completes (.drw 0 0 5) (State.reset.setI 0xFFC) = false ∧
    completes (.call 0) (depth 16 State.reset) = false ∧ completes .ret State.reset = false ∧
    completes (.skp 0) (State.reset.setV 0 16) = false ∧ completes (.sknp 0) (State.reset.setV 0 16) = false := by
  decide +kernel

/-- EncodeOfDecodeIsTheWord, DecodeFollowsTheOpcodeTable: a word that decodes, a row a word satisfies, and a word that
satisfies none. -/
theorem witness_decode :
    decodeWord 0x8EF4 = .ok (.addVxVy 0xE 0xF) ∧
    (Instr.row (.sub 0 0) ∈ opcodeTable ∧ 0x8FF5#16 &&& (Instr.row (.sub 0 0)).mask = (Instr.row (.sub 0 0)).code) ∧
    ∀ r ∈ opcodeTable, 0x8FF8#16 &&& r.mask ≠ r.code := by decide

/-- UnrecognizedWordsAreThoseListed: a word of each of the six families, and a neighbour of it that is not listed. -/
theorem witness_unrecognized :
    ([0x0FFF, 0x5FFF, 0x8FFF, 0x9FFF, 0xEFFF, 0xFFFF] : List Word).all
      (fun w => decide (decodeWord w = .error (.unrecognized w))) = true ∧
    ([0x00EE, 0x5FF0, 0x8FFE, 0x9FF0, 0xEF9E, 0xFF65] : List Word).all
      (fun w => decide (decodeWord w ≠ .error (.unrecognized w))) = true := by decide

/-- StepRunsTheDecodedInstruction, with and without an event waiting. -/
theorem witness_step :
    (start 0xC10F).fault = none ∧ (start 0xC10F).mem.fetch16 (start 0xC10F).pc = .ok 0xC10F ∧
    decodeWord 0xC10F = .ok (.rnd 1 0x0F) ∧ (start 0xC10F).env.schedule = [] ∧
    ((start 0xC10F).setSchedule [.step 0xA7]).env.schedule = [.step 0xA7] ∧
    halted.fault = some (.stackOverflow 0x200) := by decide +kernel

/-- PlacedWordIsFetchedNext: the last PC that can fetch. -/
theorem witness_placed : (State.reset.setPc 0xFFE).pc.toNat ≤ 0xFFE := by decide

/-- FetchReadsABigEndianWord, BytePrimitivesReadAndWriteOneByte: both sides of the end of memory. -/
theorem witness_end_of_memory :
    (0xFFF#16).toNat + 1 > 0xFFF ∧ (0xFFFF#16).toNat + 1 > 0xFFF ∧ (0xFFE#16).toNat + 1 ≤ 0xFFF ∧
    State.reset.mem.fetch16 0xFFF = .error (.fetchOutOfRange 0xFFF) ∧ State.reset.mem.fetch16 0xFFE = .ok 0 ∧
    State.reset.mem.memRead 0x1000 = .error (.memOutOfRange 0x1000) ∧ State.reset.mem.memRead 0xFFF = .ok 0 := by
  decide +kernel

/-- EqualMemoriesAreEqualData: two ways to the same contents. -/
theorem witness_equal_memories :
    ((State.reset.mem.write 0x301 2).write 0x300 1).wf ∧ ((State.reset.mem.write 0x300 1).write 0x301 2).wf ∧
    (State.reset.mem.write 0x301 2).write 0x300 1 = (State.reset.mem.write 0x300 1).write 0x301 2 := by decide +kernel

/-- FetchPastTheEndHaltsTheCore: the lowest such PC. -/
theorem witness_fetch_past_the_end :
    (State.reset.setPc 0xFFF).nextIsStep ∧ (State.reset.setPc 0xFFF).fault = none ∧
    0xFFF ≤ (State.reset.setPc 0xFFF).pc.toNat := ⟨.inl rfl, rfl, by decide⟩

/-- The same statement and the other two about a STEP and its schedule: a STEP with another event after it. -/
theorem witness_step_before_another_event :
    ((State.reset.setPc 0xFFF).setSchedule [.step 7, .tick]).nextIsStep ∧
    ((State.reset.setPc 0xFFF).setSchedule [.step 7, .tick]).env.schedule.tail = [.tick] :=
  ⟨.inr ⟨7, [.tick], rfl⟩, rfl⟩

/-- UnrecognizedWordIsReportedAndSkipped. -/
theorem witness_report :
    (start 0x0123).nextIsStep ∧ (start 0x0123).fault = none ∧
    (start 0x0123).mem.fetch16 (start 0x0123).pc = .ok 0x0123 ∧
    decodeWord 0x0123 = .error (.unrecognized 0x0123) := ⟨.inl rfl, rfl, by decide +kernel, by decide⟩

/-- HaltedCoreIgnoresAllButInit: a halted core with nothing waiting, an ignored event, each query, and INIT. -/
theorem witness_halted :
    halted.fault = some (.stackOverflow 0x200) ∧ halted.env.schedule = [] ∧
    (halted.setSchedule [.tick]).env.schedule = [.tick] ∧ Event.tick ≠ .init ∧ Event.tick ≠ .isDirty ∧
    (halted.setSchedule [.getPixel 63 31]).env.schedule = [.getPixel 63 31] ∧
    (halted.setSchedule [.isDirty]).env.schedule = [.isDirty] ∧
    (halted.setSchedule [.init]).env.schedule = [.init] := by decide +kernel

/-- FaultingStepChangesOnlyFault, CyclesCountsCompletedSteps (second clause): a STEP that raises a fault. -/
theorem witness_faulting_step :
    (start 0x00EE).nextIsStep ∧ (start 0x00EE).fault = none ∧
    after (start 0x00EE) (fun t => t.fault == some (.stackUnderflow 0x200)) = true :=
  ⟨.inl rfl, rfl, by decide +kernel⟩

/-- EveryStepKeepsTheInvariant, CyclesCountsCompletedSteps (first clause): a STEP that completes. -/
theorem witness_completing_step :
    (start 0xF015).mem.wf ∧ (start 0xF015).pc.toNat ≤ 0x10FE ∧ (start 0xF015).nextIsStep ∧
    after (start 0xF015) (fun t => t.fault == none) = true :=
  ⟨by decide +kernel, by decide, .inl rfl, by decide +kernel⟩
theorem witness_invariant : (start 0xF015).Inv :=
  ⟨by decide +kernel, by decide, fun j => by simp [start, State.withFetchWord, State.placeWord, State.reset, State.init]⟩

/-- InitGivesEveryPieceItsResetValue, CyclesCountsCompletedSteps (third clause): INIT, also of a halted core. -/
theorem witness_init :
    (halted.setSchedule [.init]).env.schedule = [.init] ∧ after (halted.setSchedule [.init]) (fun t => t.fault == none)
      = true := by decide +kernel

/-- The statements about TICK, the keys, LOAD, the queries and SETDIRTY, and CyclesCountsCompletedSteps (fourth
clause): a running core with each event waiting. -/
theorem witness_events :
    ([.tick, .keyDown 15, .keyUp 0, .load [], .getPixel 63 31, .isDirty, .setDirty false] : List Event).all
      (fun e => (waiting [e]).fault == none && (waiting [e]).env.schedule == [e] &&
        after (waiting [e]) (fun t => t.cycles == 0)) = true := by decide +kernel

/-- LoadWritesTheProgramOrNothing: both sides of the limit (S8). -/
theorem witness_load_limits :
    (List.replicate 0xE00 (0x01 : Byte)).length ≤ 0xE00 ∧ (List.replicate 0xE01 (0x02 : Byte)).length > 0xE00 := by
  rw [List.length_replicate, List.length_replicate]; exact ⟨by decide, by decide⟩

/-- TimersReachZeroAfterTheirValueInTicks. -/
theorem witness_ticks :
    ((waiting [.tick, .tick, .tick, .isDirty]).setSt 3).fault = none ∧
    ((waiting [.tick, .tick, .tick, .isDirty]).setSt 3).env.schedule = List.replicate 3 .tick ++ [.isDirty] := by
  decide +kernel

/-- NothingChangesTheParameterFont: a store over the font (FX55 at 0x000), an INIT after it, and the font's byte again. -/
theorem witness_font :
    after (((start 0xF055).setV 0 0x5A).setSchedule [.step 0, .init])
      (fun t => t.mem.read 0 == 0x5A && t.mem.font == Config.defaultFont && after t (fun u => u.mem.read 0 == 0xF0))
      = true := by decide +kernel

/-- SelfJumpIsSafeForever. -/
theorem witness_self_jump :
    ((start 0x1200).setSchedule [.step 7]).atSelfJump ∧ ((start 0x1200).setSchedule [.step 7]).fault = none ∧
    ∀ e ∈ ((start 0x1200).setSchedule [.step 7]).env.schedule, ∃ b, e = .step b :=
  ⟨⟨0x1200, 0x200, by decide +kernel, by decide, by decide⟩, rfl, fun e h => ⟨7, by simpa [State.setSchedule] using h⟩⟩

/-- ReturnPopsTheReturnAddress, CallPushesTheReturnAddress, CallThenReturnComesBack: the least and the greatest depth
of each clause. -/
theorem witness_stack_depths :
    (0 : Fin 16).val + 1 = (depth 1 State.reset).sp.val ∧ (15 : Fin 16).val + 1 = (depth 16 State.reset).sp.val ∧
    State.reset.sp.val = 0 ∧ State.reset.sp.val < 16 ∧ (depth 15 State.reset).sp.val < 16 ∧
    (depth 16 State.reset).sp.val = 16 := by decide

/-- The register pairs of WritesFlagThenResult and of ShiftsWriteTheBitThenTheShift: each case of X or Y equal to F. -/
theorem witness_flag_registers : (0 : Reg) ≠ vF ∧ (0xE : Reg) ≠ vF ∧ (0xF : Reg) = vF := by decide

/-- BcdStoresThreeDigits, StoreRegistersWritesTheRange, LoadRegistersReadsTheRange, StoredBytesAreFetchedNext: the
last range that fits and the first that does not. -/
theorem witness_ranges :
    (State.reset.setI 0xFFD).i.toNat + 2 ≤ 0xFFF ∧ (State.reset.setI 0xFFE).i.toNat + 2 > 0xFFF ∧
    (State.reset.setI 0xFF0).i.toNat + (0xF : Reg).toNat ≤ 0xFFF ∧
    (State.reset.setI 0xFF1).i.toNat + (0xF : Reg).toNat > 0xFFF ∧
    (State.reset.setI 0xFFF).i.toNat + (0 : Reg).toNat ≤ 0xFFF ∧ (0xFFE#16).toNat ≤ 0xFFE := by decide

/-- DrawTogglesTheCoveredPixels, SpriteRightOfTheScreenVanishes, DrawingTwiceRestoresTheScreen: no row, the last range
that fits, and the first that does not; a sprite at the first column past the screen; coordinates that are not VF. -/
theorem witness_draw :
    (0 : BitVec 4).toNat = 0 ∧ (State.reset.setI 0xFF1).i.toNat + (15 : BitVec 4).toNat - 1 ≤ 0xFFF ∧
    0 < (15 : BitVec 4).toNat ∧ (State.reset.setI 0xFF2).i.toNat + (15 : BitVec 4).toNat - 1 > 0xFFF ∧
    64 ≤ ((State.reset.setV 0 64).getV 0).toNat ∧ (0 : Reg) ≠ vF ∧ (0xE : Reg) ≠ vF := by decide +kernel

/-- DrawRowEqualsTheByteLevelForm: the last column and row, and a column in each of the three cases. -/
theorem witness_row : 63 ≤ 63 ∧ 31 < 32 ∧ 60 / 8 = 7 ∧ 0 < 4 % 8 ∧ 4 / 8 < 7 := by decide

/-- RandomIsMaskedByTheImmediate: a STEP that carries its byte. -/
theorem witness_rnd : ((start 0xC10F).setRnd (some 0xA7)).env.rnd = some 0xA7 := by decide +kernel

/-- KeySkipsTestTheKeyLevel: the least and the greatest key, down and up, and the first value that is no key. -/
theorem witness_key_numbers :
    ((State.reset.setV 0 15).getV 0).toNat = (15 : Fin 16).val ∧ (State.reset.getV 0).toNat = (0 : Fin 16).val ∧
    15 < ((State.reset.setV 0 16).getV 0).toNat ∧ (State.reset.setKey 15 true).keyAt 15 = true ∧
    State.reset.keyAt 15 = false := by decide +kernel

/-- KeyAwaitTakesTheLowestKeyOrWaits: no key down, and the least and the greatest lowest key. -/
theorem witness_key_await :
    (∀ k, State.reset.keyAt k = false) ∧
    ((State.reset.setKey 0 true).keyAt 0 = true ∧ ∀ j, j < 0 → (State.reset.setKey 0 true).keyAt j = false) ∧
    (State.reset.setKey 15 true).keyAt 15 = true ∧ ∀ j, j < 15 → (State.reset.setKey 15 true).keyAt j = false := by
  decide +kernel

/-- WaitEndsAtTheNextKeyDown: two STEPs at FX0A, KEYDOWN(5), a STEP (S5), and an event after them. -/
theorem witness_wait :
    let s := (start 0xF00A).setSchedule [.step 0, .step 1, .keyDown 5, .step 2, .tick]
    s.fault = none ∧ s.mem.fetch16 s.pc = .ok 0xF00A ∧ decodeWord 0xF00A = .ok (.ldVxK 0) ∧
    (∀ j, s.keyAt j = false) ∧ ([0, 1] : List Byte).length = 2 ∧
    s.env.schedule = ([0, 1] : List Byte).map Event.step ++ .keyDown 5 :: .step 2 :: [.tick] := by decide +kernel

end Sys2Proof.Tests
end

section
/-! SUPPORT. The frame rule as a calculus (00_scope.md R13, D10): one rule for each operation on the state, and from the
rules what any instruction can do: raise a fault and nothing else, or change no more than its effects. -/

namespace Sys2Proof.Machine

/-! ### Frames and the parameter FONT -/

/-- `t` differs from `s` in the pieces of `ps` at most, and holds the same FONT. FONT is stated beside the pieces, since
it is none of them (R7, R9) and a piece `.mem` that is unchanged byte by byte says nothing of it. -/
structure KeepsFrame (ps : List Piece) (s t : State) : Prop where
  frame : UnchangedExcept ps s t
  font : t.mem.font = s.mem.font

theorem Unchanged.refl (s : State) (p : Piece) : Unchanged s s p := by
  cases p <;> simp [Unchanged]

theorem Unchanged.trans {s t u : State} {p : Piece} (h : Unchanged s t p) (h' : Unchanged t u p) : Unchanged s u p := by
  cases p with
  | v => exact fun r => (h' r).trans (h r)
  | mem => exact fun a => (h' a).trans (h a)
  | _ => exact Eq.trans h' h

namespace KeepsFrame

variable {ps : List Piece} {s t u : State}

theorem refl (s : State) : KeepsFrame ps s s := ⟨fun p _ => .refl s p, rfl⟩

theorem trans (h : KeepsFrame ps s t) (h' : KeepsFrame ps t u) : KeepsFrame ps s u :=
  ⟨fun p hp => (h.frame p hp).trans (h'.frame p hp), h'.font.trans h.font⟩

/-! ### One rule for each operation

Each rule extends a frame by one operation, whose piece must be among the pieces that may change. -/

theorem setV (h : KeepsFrame ps s t) {x : Reg} {b : Byte} (hv : .v ∈ ps := by simp [effectsOf]) :
    KeepsFrame ps s (t.setV x b) :=
  h.trans ⟨fun q hq => by cases q <;> simp_all [Unchanged], rfl⟩

theorem setPc (h : KeepsFrame ps s t) {a : Word} (hp : .pc ∈ ps := by simp [effectsOf]) :
    KeepsFrame ps s (t.setPc a) :=
  h.trans ⟨fun q hq => by cases q <;> simp_all [Unchanged], rfl⟩

theorem advance (h : KeepsFrame ps s t) (hp : .pc ∈ ps := by simp [effectsOf]) : KeepsFrame ps s t.advance :=
  h.setPc hp

theorem skipIf (h : KeepsFrame ps s t) {c : Bool} (hp : .pc ∈ ps := by simp [effectsOf]) :
    KeepsFrame ps s (t.skipIf c) :=
  h.setPc hp

theorem setI (h : KeepsFrame ps s t) {a : Word} (hi : .i ∈ ps := by simp [effectsOf]) : KeepsFrame ps s (t.setI a) :=
  h.trans ⟨fun q hq => by cases q <;> simp_all [Unchanged], rfl⟩

theorem setDt (h : KeepsFrame ps s t) {b : Byte} (hd : .dt ∈ ps := by simp [effectsOf]) : KeepsFrame ps s (t.setDt b) :=
  h.trans ⟨fun q hq => by cases q <;> simp_all [Unchanged], rfl⟩

theorem setSt (h : KeepsFrame ps s t) {b : Byte} (hs : .st ∈ ps := by simp [effectsOf]) : KeepsFrame ps s (t.setSt b) :=
  h.trans ⟨fun q hq => by cases q <;> simp_all [Unchanged], rfl⟩

theorem setScreen (h : KeepsFrame ps s t) {fb : Framebuffer} (hf : .fb ∈ ps := by simp [effectsOf])
    (hd : .dirty ∈ ps := by simp [effectsOf]) : KeepsFrame ps s (t.setScreen fb) :=
  h.trans ⟨fun q hq => by cases q <;> simp_all [Unchanged], rfl⟩

theorem drawn (h : KeepsFrame ps s t) (he : .env ∈ ps := by simp [effectsOf]) : KeepsFrame ps s t.drawn :=
  h.trans ⟨fun q hq => by cases q <;> simp_all [Unchanged], rfl⟩

/-- A new memory keeps the frame if it was made for the same FONT. -/
theorem setMem (h : KeepsFrame ps s t) {m : Memory} (hf : m.font = t.mem.font)
    (hm : .mem ∈ ps := by simp [effectsOf]) : KeepsFrame ps s (t.setMem m) :=
  h.trans ⟨fun q hq => by cases q <;> simp_all [Unchanged], hf⟩

theorem flagThenResult (h : KeepsFrame ps s t) {f : Byte} {x : Reg} {g : State → Byte}
    (hv : .v ∈ ps := by simp [effectsOf]) : KeepsFrame ps s (t.flagThenResult f x g) :=
  (h.setV hv).setV hv

theorem setVs (h : KeepsFrame ps s t) {k : Nat} {bs : List Byte} (hv : .v ∈ ps := by simp [effectsOf]) :
    KeepsFrame ps s (State.setVs k bs t) := by
  induction bs generalizing k t with
  | nil => exact h
  | cons b bs ih => exact ih (h.setV hv)

/-- A push that succeeds changes SP and the stack (40_control_flow.md R112). -/
theorem push (h : KeepsFrame ps s t) {a : Word} (hu : t.push a = .ok u) (hs : .sp ∈ ps := by simp [effectsOf])
    (hk : .stack ∈ ps := by simp [effectsOf]) : KeepsFrame ps s u := by
  by_cases hsp : t.sp.val < 16
  · rw [State.push_ok t a hsp, Except.ok.injEq] at hu
    subst hu
    exact h.trans ⟨fun q hq => by cases q <;> simp_all [Unchanged, State.getV], rfl⟩
  · rw [State.push_full t a (by omega)] at hu
    cases hu

/-- A pop that succeeds changes SP, and the popped address keeps its slot (R110, 10_state.md R26). -/
theorem pop (h : KeepsFrame ps s t) {a : Word} (hu : t.pop = .ok (a, u)) (hs : .sp ∈ ps := by simp [effectsOf]) :
    KeepsFrame ps s u := by
  by_cases hsp : 0 < t.sp.val
  · rw [State.pop_ok t hsp, Except.ok.injEq, Prod.mk.injEq] at hu
    obtain ⟨-, rfl⟩ := hu
    exact h.trans ⟨fun q hq => by cases q <;> simp_all [Unchanged, State.getV], rfl⟩
  · rw [State.pop_empty t (by omega)] at hu
    cases hu

end KeepsFrame

/-- Writes that raise no fault leave FONT as it was, also where they store over the font's bytes (20_memory.md R53). -/
theorem Memory.memWrites_font {a : Nat} {bs : List Byte} {m m' : Memory} (h : Memory.memWrites a bs m = .ok m') :
    m'.font = m.font := by
  rw [Memory.memWrites_eq] at h
  split at h
  · rw [← Except.ok.inj h, Memory.writeAll_font]
  · cases h

/-! ### What an instruction can do -/

/-- All or nothing (60_exceptions.md R213): `t` is `s` with a fault raised, or differs from it in the pieces of `ps` at
most. -/
def FaultsOrKeeps (ps : List Piece) (s t : State) : Prop := (∃ f, t = s.raise f) ∨ KeepsFrame ps s t

/-- An access raises its fault on the state before it, or what follows it keeps the frame. -/
theorem FaultsOrKeeps.attempt {α : Type} {ps : List Piece} {s : State} {r : Except Fault α} {k : α → State}
    (h : ∀ a, r = .ok a → KeepsFrame ps s (k a)) : FaultsOrKeeps ps s (s.attempt r k) := by
  cases r with
  | ok a => exact .inr (h a rfl)
  | error f => exact .inl ⟨f, rfl⟩

theorem FaultsOrKeeps.font {ps : List Piece} {s t : State} (h : FaultsOrKeeps ps s t) : t.mem.font = s.mem.font := by
  obtain ⟨f, rfl⟩ | h := h
  · rw [State.raise_mem]
  · exact h.font

/-- Everything an instruction can do: it answers a next state, which raises a fault and does nothing else, or changes no
more than the effects its rule lists. -/
theorem exec_faultsOrKeeps (i : Instr) (s : State) : ∃ t, exec i s = .next t ∧ FaultsOrKeeps (effectsOf i) s t := by
  have h {ps : List Piece} : KeepsFrame ps s s := .refl s
  cases i with
  | cls => exact ⟨_, rfl, .inr h.setScreen.advance⟩
  | ret => exact ⟨_, rfl, .attempt fun _ hp => (h.pop hp).setPc⟩
  | jp | jpV0Nnn => exact ⟨_, rfl, .inr h.setPc⟩
  | call => exact ⟨_, rfl, .attempt fun _ hp => (h.push hp).setPc⟩
  | seVxNn | sneVxNn | seVxVy | sneVxVy => exact ⟨_, rfl, .inr h.skipIf⟩
  | skp | sknp => exact ⟨_, rfl, .attempt fun _ _ => h.skipIf⟩
  | ldVxNn | addVxNn | ldVxVy | or | and | xor | ldVxDt => exact ⟨_, rfl, .inr h.setV.advance⟩
  | addVxVy | sub | shr | subn | shl => exact ⟨_, rfl, .inr h.flagThenResult.advance⟩
  | ldINnn | ldFVx => exact ⟨_, rfl, .inr h.setI.advance⟩
  | addIVx => exact ⟨_, rfl, .inr h.setI.setV.advance⟩
  | rnd => exact ⟨_, rfl, .inr h.drawn.setV.advance⟩
  | drw => exact ⟨_, rfl, .attempt fun _ _ => h.setScreen.setV.advance⟩
  | ldDtVx => exact ⟨_, rfl, .inr h.setDt.advance⟩
  | ldStVx => exact ⟨_, rfl, .inr h.setSt.advance⟩
  | ldBVx | ldMemVx => exact ⟨_, rfl, .attempt fun _ hm => (h.setMem (Memory.memWrites_font hm)).advance⟩
  | ldVxMem => exact ⟨_, rfl, .attempt fun _ _ => h.setVs.advance⟩
  | ldVxK =>
    refine ⟨_, rfl, .inr ?_⟩
    split
    · exact h
    · exact h.setV.advance

/-- The same of a next state that is given. -/
theorem faultsOrKeeps_of_exec {i : Instr} {s t : State} (h : exec i s = .next t) : FaultsOrKeeps (effectsOf i) s t := by
  obtain ⟨u, hu, hk⟩ := exec_faultsOrKeeps i s
  obtain rfl : t = u := Host.Outcome.next.inj (h.symm.trans hu)
  exact hk

/-- Settles O26: a next state without a fault is no raised one, so it keeps the frame of the instruction's effects. -/
theorem instructionsChangeOnlyTheirEffects : Obligations.InstructionsChangeOnlyTheirEffects := by
  intro i s t _ ht hf
  obtain ⟨f, rfl⟩ | hk := faultsOrKeeps_of_exec ht
  · cases (State.raise_fault s f).symm.trans hf
  · exact hk.frame

end Sys2Proof.Machine
end

section
/-! SUPPORT. The parameter FONT along every event (00_scope.md R7, R9): a STEP keeps it since its instruction does, INIT
passes it on, and the other events touch memory only through writes. -/

namespace Sys2Proof.Machine

theorem exec_font {i : Instr} {s t : State} (h : exec i s = .next t) : t.mem.font = s.mem.font :=
  (faultsOrKeeps_of_exec h).font

/-! ### A STEP -/

@[simp] theorem State.retire_mem (t : State) : t.retire.mem = t.mem := by
  rw [State.retire_eq]

theorem executeWord_font {w : Word} {s t : State} (h : executeWord w s = .next t) : t.mem.font = s.mem.font := by
  cases hd : decodeWord w with
  | ok i => exact exec_font (executeWord_instr hd s ▸ h)
  | error e =>
    rw [executeWord_unrecognized hd] at h
    cases h
    rfl

/-- The end of a STEP answers a next state where the instruction does. -/
theorem retireOutcome_eq_next {o : Host.Outcome State Fault Refusal} {t : State} :
    retireOutcome o = .next t ↔ ∃ u, o = .next u ∧ t = u.retire := by
  cases o <;> simp [retireOutcome, eq_comm]

/-- Everything a STEP that answers a next state can do: nothing on a halted core, a fetch fault, or the execution of the
fetched word (30_encoding.md R88). -/
theorem cycle_cases {r : Option Byte} {s t : State} (h : cycle r s = .next t) :
    ((∃ f, s.fault = some f) ∧ t = s) ∨
    (s.fault = none ∧ 0xFFF ≤ s.pc.toNat ∧ t = ((s.setRnd r).raise (.fetchOutOfRange s.pc)).retire) ∨
    (s.fault = none ∧ ∃ w u, s.mem.fetch16 s.pc = .ok w ∧ executeWord w (s.setRnd r) = .next u ∧ t = u.retire) := by
  cases hf : s.fault with
  | some f =>
    rw [cycle_halted hf] at h
    exact .inl ⟨⟨f, rfl⟩, (Host.Outcome.next.inj h).symm⟩
  | none =>
    by_cases hp : 0xFFF ≤ s.pc.toNat
    · rw [cycle_fetch_fault hf hp] at h
      exact .inr (.inl ⟨rfl, hp, (Host.Outcome.next.inj h).symm⟩)
    · have hw := s.mem.fetch16_ok (pc := s.pc) (by omega)
      rw [cycle_fetched hf hw] at h
      obtain ⟨u, hu, rfl⟩ := retireOutcome_eq_next.1 h
      exact .inr (.inr ⟨rfl, _, u, hw, hu, rfl⟩)

theorem cycle_font {r : Option Byte} {s t : State} (h : cycle r s = .next t) : t.mem.font = s.mem.font := by
  obtain ⟨-, rfl⟩ | ⟨-, -, rfl⟩ | ⟨-, w, u, -, hu, rfl⟩ := cycle_cases h
  · rfl
  · rw [State.retire_mem, State.raise_mem, State.setRnd_mem]
  · rw [State.retire_mem, executeWord_font hu, State.setRnd_mem]

/-! ### The other events -/

/-- An event that a halted core ignores keeps FONT if it does on a running one. -/
theorem State.unlessHalted_font {s : State} {k : State → State} (h : (k s).mem.font = s.mem.font) :
    (s.unlessHalted k).mem.font = s.mem.font := by
  unfold State.unlessHalted
  split
  · rfl
  · exact h

theorem State.loadEvent_font (bytes : List Byte) (s : State) : (s.loadEvent bytes).mem.font = s.mem.font := by
  unfold State.loadEvent
  split
  · rw [State.emit_mem, State.setMem_mem, Memory.writeAll_font]
  · rw [State.emit_mem]

@[simp] theorem State.tickEvent_mem (s : State) : s.tickEvent.mem = s.mem := by
  simp only [State.tickEvent]
  split <;> rfl

theorem handle_font {e : Event} {s t : State} (h : handle e s = .next t) : t.mem.font = s.mem.font := by
  cases e with
  | step b => exact cycle_font h
  | init | getPixel | isDirty => cases h; rfl
  | load bytes => cases h; exact State.unlessHalted_font (State.loadEvent_font bytes s)
  | tick => cases h; exact State.unlessHalted_font (congrArg Memory.font s.tickEvent_mem)
  | keyDown | keyUp | setDirty => cases h; exact State.unlessHalted_font rfl

theorem step_font {s t : State} (h : step s = .next t) : t.mem.font = s.mem.font := by
  cases hs : s.env.schedule with
  | nil => exact cycle_font (step_of_empty hs ▸ h)
  | cons e es =>
    rw [step_of_event hs] at h
    rw [handle_font h, State.setSchedule_mem]

/-! ### The placing of a word -/

theorem State.placeWord_font (s : State) (w : Word) : (s.placeWord w).mem.font = s.mem.font := by
  simp [State.placeWord]

/-- Settles O59: FONT through every event, every instruction and the placing of a word. -/
theorem nothingChangesTheParameterFont : Obligations.NothingChangesTheParameterFont :=
  ⟨fun _ _ => step_font, fun _ _ _ => exec_font, fun s _ _ => s.placeWord_font _⟩

end Sys2Proof.Machine
end

section
/-! SUPPORT. What one instruction writes, cell by cell and register by register (10_state.md R22, R24): PC takes one of
the ways listed, a register changes only as destination or flag, `cycles` never. -/

namespace Sys2Proof.Machine

/-! ### What no instruction changes -/

/-- `cycles` and the fault register are the effect of no instruction (10_state.md R31, R32). -/
theorem cycles_fault_not_mem_effectsOf (i : Instr) : Piece.cycles ∉ effectsOf i ∧ Piece.fault ∉ effectsOf i := by
  cases i <;> simp [effectsOf]

/-- An instruction raises a fault and nothing else, or leaves the fault register as it was. -/
theorem exec_raises_or_keeps_fault {i : Instr} {s t : State} (h : exec i s = .next t) :
    (∃ f, t = s.raise f) ∨ t.fault = s.fault :=
  (faultsOrKeeps_of_exec h).imp_right fun hk => hk.frame .fault (cycles_fault_not_mem_effectsOf i).2

theorem exec_cycles {i : Instr} {s t : State} (h : exec i s = .next t) : t.cycles = s.cycles := by
  obtain ⟨f, rfl⟩ | hk := faultsOrKeeps_of_exec h
  · rfl
  · exact hk.frame .cycles (cycles_fault_not_mem_effectsOf i).1

/-- An access that ends without a fault has succeeded (60_exceptions.md R213). -/
theorem State.attempt_completes {α : Type} {s t : State} {r : Except Fault α} {k : α → State} (h : s.attempt r k = t)
    (hf : t.fault = none) : ∃ a, r = .ok a ∧ t = k a := by
  subst h
  cases r with
  | ok a => exact ⟨a, rfl, rfl⟩
  | error f => cases hf

@[simp] theorem State.setVs_pc (k : Nat) (bs : List Byte) (s : State) : (State.setVs k bs s).pc = s.pc := by
  rw [State.setVs_frame]

@[simp] theorem State.setVs_mem (k : Nat) (bs : List Byte) (s : State) : (State.setVs k bs s).mem = s.mem := by
  rw [State.setVs_frame]

@[simp] theorem State.setVs_cycles (k : Nat) (bs : List Byte) (s : State) : (State.setVs k bs s).cycles = s.cycles := by
  rw [State.setVs_frame]

@[simp] theorem State.setVs_env (k : Nat) (bs : List Byte) (s : State) : (State.setVs k bs s).env = s.env := by
  rw [State.setVs_frame]

/-! ### PC -/

@[simp] theorem zextImm_toNat (nnn : Imm12) : (zextImm nnn).toNat = nnn.toNat :=
  BitVec.toNat_setWidth_of_le (by decide)

/-- NNN + V0 is at most 0x10FE, so the 16-bit sum is the natural one (40_control_flow.md R113). -/
theorem zextImm_add_zextByte_toNat (nnn : Imm12) (b : Byte) :
    (zextImm nnn + zextByte b).toNat = nnn.toNat + b.toNat := by
  have hn := nnn.isLt
  have hb := b.isLt
  have hz : (zextByte b).toNat = b.toNat := BitVec.toNat_setWidth_of_le (by decide)
  rw [BitVec.toNat_add, zextImm_toNat, hz, Nat.mod_eq_of_lt (by omega)]

theorem State.skipIf_pc_cases (s : State) (c : Bool) : (s.skipIf c).pc = s.pc + 2 ∨ (s.skipIf c).pc = s.pc + 4 := by
  cases c
  · exact .inl rfl
  · exact .inr rfl

/-- Settles O29: the PC each rule gives, once the accesses of the instruction have succeeded. -/
theorem nextPcIsOneOfTheListedWays : Obligations.NextPcIsOneOfTheListedWays := by
  intro i s t _ ht hf
  cases i with
  | jp nnn => cases ht; exact zextImm_toNat nnn
  | jpV0Nnn nnn => cases ht; exact zextImm_add_zextByte_toNat nnn (s.getV 0)
  | call nnn =>
    obtain ⟨u, -, rfl⟩ := State.attempt_completes (Host.Outcome.next.inj ht) hf
    exact zextImm_toNat nnn
  | ret =>
    obtain ⟨p, hp, rfl⟩ := State.attempt_completes (Host.Outcome.next.inj ht) hf
    by_cases hsp : 0 < s.sp.val
    · rw [State.pop_ok s hsp] at hp
      cases hp
      exact ⟨⟨s.sp.val - 1, by omega⟩, Nat.sub_add_cancel hsp, rfl⟩
    · rw [State.pop_empty s (by omega)] at hp
      cases hp
  | seVxNn | sneVxNn | seVxVy | sneVxVy => cases ht; exact State.skipIf_pc_cases _ _
  | skp | sknp =>
    obtain ⟨k, -, rfl⟩ := State.attempt_completes (Host.Outcome.next.inj ht) hf
    exact State.skipIf_pc_cases _ _
  | ldVxK x =>
    cases ht
    cases hk : s.lowestKey <;> simp
  | drw | ldBVx | ldMemVx =>
    obtain ⟨a, -, rfl⟩ := State.attempt_completes (Host.Outcome.next.inj ht) hf
    rfl
  | ldVxMem =>
    obtain ⟨bs, -, rfl⟩ := State.attempt_completes (Host.Outcome.next.inj ht) hf
    simp
  | _ => cases ht; rfl

/-! ### The registers -/

/-- An instruction without V among its effects keeps every register, also when it raises a fault. -/
theorem exec_getV {i : Instr} {s t : State} (h : exec i s = .next t) (hv : Piece.v ∉ effectsOf i) (r : Reg) :
    t.getV r = s.getV r := by
  obtain ⟨f, rfl⟩ | hk := faultsOrKeeps_of_exec h
  · rfl
  · exact hk.frame .v hv r

theorem State.getV_setV_of_ne {s : State} {x r : Reg} {b : Byte} (h : r ≠ x) : (s.setV x b).getV r = s.getV r := by
  rw [State.getV_setV, if_neg h]

/-- FX65 loads no register above VX (42_index_memory.md R155). -/
theorem exec_ldVxMem_getV {x r : Reg} {s t : State} (h : exec (.ldVxMem x) s = .next t) (hr : x.toNat < r.toNat) :
    t.getV r = s.getV r := by
  cases h
  rw [attempt_memReads]
  split
  · have hx := x.isLt
    rw [State.advance_getV, State.setVs_getV _ _ _ (by simp; omega), if_pos (Nat.zero_le _),
      List.getElem?_eq_none (by simpa using hr), Option.getD_none]
  · rfl

/-- Settles O27: the instructions with V among their effects write the registers of `writesReg` only; the others keep
them all. -/
theorem registersChangeOnlyAsDestinationOrFlag : Obligations.RegistersChangeOnlyAsDestinationOrFlag := by
  intro i s t r ht hr
  cases i with
  | ldVxNn | addVxNn | ldVxVy | or | and | xor | rnd | ldVxDt | addIVx =>
    cases ht
    exact (State.advance_getV _ r).trans (State.getV_setV_of_ne hr)
  | addVxVy | sub | shr | subn | shl =>
    cases ht
    obtain ⟨hx, hF⟩ := not_or.1 hr
    exact (State.advance_getV _ r).trans ((State.getV_setV_of_ne hx).trans (State.getV_setV_of_ne hF))
  | ldVxK x =>
    cases ht
    cases s.lowestKey with
    | none => rfl
    | some k => exact (State.advance_getV _ r).trans (State.getV_setV_of_ne hr)
  | drw =>
    cases ht
    rw [attempt_memReads]
    split
    · exact (State.advance_getV _ r).trans (State.getV_setV_of_ne hr)
    · rfl
  | ldVxMem => exact exec_ldVxMem_getV ht (not_le.1 hr)
  | _ => exact exec_getV ht (by simp [effectsOf]) r

end Sys2Proof.Machine
end

section
/-! SUPPORT. The invariant of memory, PC and call stack (10_state.md R24): INIT meets it, and every event keeps it. -/

namespace Sys2Proof.Machine

/-! ### States that meet it -/

/-- Settles O17: INIT leaves no cell listed, PC at 0x200 and a stack of zeros. -/
theorem resetMeetsTheInvariant : Obligations.ResetMeetsTheInvariant := by
  have h (font : Vector Byte 80) (env : Env) : (State.init font env).Inv :=
    ⟨Memory.wf_nil font, by simp, fun j => by simp⟩
  exact ⟨h, h _ _⟩

/-- The invariant is about memory, PC and stack only. -/
theorem State.Inv.congr {s t : State} (h : s.Inv) (hm : t.mem = s.mem) (hp : t.pc = s.pc) (hk : t.stack = s.stack) :
    t.Inv := by
  rwa [State.Inv, hm, hp, hk]

/-- The end of a STEP touches `cycles` and the payload only. -/
theorem State.Inv.retire {t : State} (h : t.Inv) : t.retire.Inv := by
  rw [State.retire_eq]
  exact h.congr rfl rfl rfl

theorem State.Inv.raise {s : State} (h : s.Inv) (f : Fault) : (s.raise f).Inv := h.congr rfl rfl rfl

theorem State.Inv.setRnd {s : State} (h : s.Inv) (r : Option Byte) : (s.setRnd r).Inv := h.congr rfl rfl rfl

theorem State.Inv.setSchedule {s : State} (h : s.Inv) (es : List Event) : (s.setSchedule es).Inv := h.congr rfl rfl rfl

/-! ### Memory -/

/-- Writes that raise no fault keep the canonical form: every address they store at is legal (20_memory.md R58). -/
theorem Memory.wf_memWrites {a : Nat} {bs : List Byte} {m m' : Memory} (hw : m.wf)
    (h : Memory.memWrites a bs m = .ok m') : m'.wf := by
  rw [Memory.memWrites_eq] at h
  split at h
  · rw [← Except.ok.inj h]
    exact Memory.wf_writeAll a bs hw ‹_›
  · cases h

/-- An access leaves a canonical memory if it does where it succeeds. -/
theorem State.attempt_wf {α : Type} {s : State} {r : Except Fault α} {k : α → State} (hw : s.mem.wf)
    (hk : ∀ a, r = .ok a → (k a).mem.wf) : (s.attempt r k).mem.wf := by
  cases r with
  | ok a => exact hk a rfl
  | error f => exact hw

theorem State.push_mem {s u : State} {a : Word} (h : s.push a = .ok u) : u.mem = s.mem := by
  by_cases hsp : s.sp.val < 16
  · rw [State.push_ok s a hsp] at h
    cases h
    rfl
  · rw [State.push_full s a (by omega)] at h
    cases h

theorem State.pop_mem {s u : State} {a : Word} (h : s.pop = .ok (a, u)) : u.mem = s.mem := by
  by_cases hsp : 0 < s.sp.val
  · rw [State.pop_ok s hsp] at h
    cases h
    rfl
  · rw [State.pop_empty s (by omega)] at h
    cases h

/-- Every instruction keeps the canonical form: FX33 and FX55 by legal writes, every other as it leaves memory. -/
theorem exec_wf {i : Instr} {s t : State} (hw : s.mem.wf) (h : exec i s = .next t) : t.mem.wf := by
  cases i with
  | ldBVx | ldMemVx => cases h; exact State.attempt_wf hw fun _ hm => Memory.wf_memWrites hw hm
  | ldVxMem => cases h; exact State.attempt_wf hw fun bs _ => by rwa [State.advance_mem, State.setVs_mem]
  | call => cases h; exact State.attempt_wf hw fun _ hp => by rwa [State.setPc_mem, State.push_mem hp]
  | ret => cases h; exact State.attempt_wf hw fun _ hp => by rwa [State.setPc_mem, State.pop_mem hp]
  | drw | skp | sknp => cases h; exact State.attempt_wf hw fun _ _ => hw
  | ldVxK =>
    cases h
    split <;> exact hw
  | _ => cases h; exact hw

/-! ### PC and stack -/

/-- PC + 2 and PC + 4 do not wrap where an instruction can be fetched (20_memory.md R56). -/
theorem add_two_four_le {pc : Word} (h : pc.toNat ≤ 0xFFE) :
    (pc + 2).toNat ≤ 0x1000 ∧ (pc + 4).toNat ≤ 0x1002 := by
  bv_omega

/-- From a PC that can be fetched every way of writing PC stays within the bound, the sum NNN + V0 being the largest
(R24). -/
theorem exec_pc_le {i : Instr} {s t : State} (hi : s.Inv) (hf : s.fault = none) (hp : s.pc.toNat ≤ 0xFFE)
    (h : exec i s = .next t) : t.pc.toNat ≤ 0x10FE := by
  obtain ⟨-, hpc, hstack⟩ := hi
  obtain ⟨h2, h4⟩ := add_two_four_le hp
  obtain ⟨f, rfl⟩ | htf := exec_raises_or_keeps_fault h
  · exact hpc
  · have hway := nextPcIsOneOfTheListedWays i s t hf h (htf.trans hf)
    cases i with
    | jp nnn | call nnn =>
      have := nnn.isLt
      simp only at hway
      omega
    | jpV0Nnn nnn =>
      have := nnn.isLt
      have := (s.getV 0).isLt
      simp only at hway
      omega
    | ret =>
      obtain ⟨j, -, e⟩ := hway
      rw [e]
      exact (hstack j).trans (by decide)
    | seVxNn | sneVxNn | seVxVy | sneVxVy | skp | sknp =>
      obtain e | e := hway <;> rw [e] <;> omega
    | ldVxK =>
      simp only at hway
      split at hway <;> rw [hway] <;> omega
    | _ =>
      simp only at hway
      rw [hway]
      omega

/-- Only 2NNN writes the stack: the return address, in the slot of SP (40_control_flow.md R112). -/
theorem exec_stack {i : Instr} {s t : State} (h : exec i s = .next t) :
    t.stack = s.stack ∨ ∃ hsp : s.sp.val < 16, t.stack = s.stack.set s.sp.val (s.pc + 2) hsp := by
  by_cases hm : Piece.stack ∈ effectsOf i
  · obtain ⟨nnn, rfl⟩ : ∃ nnn, i = .call nnn := by cases i <;> simp_all [effectsOf]
    cases h
    by_cases hsp : s.sp.val < 16
    · rw [State.push_ok s _ hsp]
      exact .inr ⟨hsp, rfl⟩
    · rw [State.push_full s _ (by omega)]
      exact .inl rfl
  · obtain ⟨f, rfl⟩ | hk := faultsOrKeeps_of_exec h
    · exact .inl rfl
    · exact .inl (hk.frame .stack hm)

theorem exec_inv {i : Instr} {s t : State} (hi : s.Inv) (hf : s.fault = none) (hp : s.pc.toNat ≤ 0xFFE)
    (h : exec i s = .next t) : t.Inv := by
  refine ⟨exec_wf hi.1 h, exec_pc_le hi hf hp h, fun j => ?_⟩
  obtain ⟨-, -, hstack⟩ := hi
  obtain e | ⟨hsp, e⟩ := exec_stack h
  · rw [e]
    exact hstack j
  · rw [e, Fin.getElem_fin, Vector.getElem_set]
    split
    · exact (add_two_four_le hp).1
    · exact hstack j

/-! ### Events -/

theorem executeWord_inv {w : Word} {s t : State} (hi : s.Inv) (hf : s.fault = none) (hp : s.pc.toNat ≤ 0xFFE)
    (h : executeWord w s = .next t) : t.Inv := by
  cases hd : decodeWord w with
  | ok i => exact exec_inv hi hf hp (executeWord_instr hd s ▸ h)
  | error e =>
    rw [executeWord_unrecognized hd] at h
    cases h
    obtain ⟨hwf, -, hstack⟩ := hi
    exact ⟨hwf, (add_two_four_le hp).1.trans (by decide), hstack⟩

/-- A fetch that succeeds was made at or below 0xFFE (20_memory.md R56). -/
theorem Memory.pc_le_of_fetch16 {m : Memory} {pc w : Word} (h : m.fetch16 pc = .ok w) : pc.toNat ≤ 0xFFE := by
  by_contra hp
  rw [Memory.fetch16_fault m (by omega)] at h
  cases h

theorem cycle_inv {r : Option Byte} {s t : State} (hi : s.Inv) (h : cycle r s = .next t) : t.Inv := by
  obtain ⟨-, rfl⟩ | ⟨-, -, rfl⟩ | ⟨hf, w, u, hw, hu, rfl⟩ := cycle_cases h
  · exact hi
  · exact ((hi.setRnd r).raise _).retire
  · exact (executeWord_inv (hi.setRnd r) hf (Memory.pc_le_of_fetch16 hw) hu).retire

theorem State.Inv.unlessHalted {s : State} {k : State → State} (hi : s.Inv) (hk : (k s).Inv) :
    (s.unlessHalted k).Inv := by
  unfold State.unlessHalted
  split
  · exact hi
  · exact hk

/-- A program that fits ends at 0xFFF, so LOAD writes legal addresses only (20_memory.md R60, R61). -/
theorem State.Inv.loadEvent {s : State} (hi : s.Inv) (bytes : List Byte) : (s.loadEvent bytes).Inv := by
  unfold State.loadEvent
  split
  · rename_i hfits
    obtain ⟨hwf, hpc, hstack⟩ := hi
    have hlen : bytes.length ≤ 0xE00 := by simpa [programFits] using hfits
    exact ⟨Memory.wf_writeAll 0x200 bytes hwf (.inr (by omega)), hpc, hstack⟩
  · exact hi.congr rfl rfl rfl

theorem State.Inv.tickEvent {s : State} (hi : s.Inv) : s.tickEvent.Inv := by
  unfold State.tickEvent
  extract_lets t
  split <;> exact hi.congr rfl rfl rfl

theorem handle_inv {e : Event} {s t : State} (hi : s.Inv) (h : handle e s = .next t) : t.Inv := by
  cases e with
  | step b => exact cycle_inv hi h
  | init => cases h; exact resetMeetsTheInvariant.1 _ _
  | load bytes => cases h; exact hi.unlessHalted (hi.loadEvent bytes)
  | tick => cases h; exact hi.unlessHalted hi.tickEvent
  | keyDown | keyUp | setDirty => cases h; exact hi.unlessHalted (hi.congr rfl rfl rfl)
  | getPixel | isDirty => cases h; exact hi.congr rfl rfl rfl

/-- Settles O16: the invariant through a STEP of an empty schedule and through each event. -/
theorem everyStepKeepsTheInvariant : Obligations.EveryStepKeepsTheInvariant := by
  intro s t hi h
  cases hs : s.env.schedule with
  | nil => exact cycle_inv hi (step_of_empty hs ▸ h)
  | cons e es =>
    rw [step_of_event hs] at h
    exact handle_inv (hi.setSchedule es) h

end Sys2Proof.Machine
end

section
/-! SUPPORT. INIT and the counter `cycles` (10_state.md R32, R35): a STEP counts itself when it ends without a fault,
INIT gives every piece its reset value. -/

namespace Sys2Proof.Machine

/-! ### INIT -/

/-- INIT answers the state after INIT, whatever the state before it held (70_reset_and_hazards.md R240). -/
theorem step_init {s : State} {es : List Event} (h : s.env.schedule = .init :: es) :
    step s = .next (State.init s.mem.font { s.env with schedule := es }) :=
  step_of_event h

/-- Memory after INIT reads as its background: FONT, then zeros (R35). -/
theorem Memory.read_nil (font : Vector Byte 80) (a : Nat) :
    Memory.read { font := font, cells := [] } a = if h : a < 80 then font[a] else 0 := rfl

/-- Settles O20: each piece of the state after INIT. -/
theorem initGivesEveryPieceItsResetValue : Obligations.InitGivesEveryPieceItsResetValue := by
  intro s es h
  refine ⟨_, step_init h, fun r => ?v, rfl, rfl, rfl, fun j => ?stack, fun a => ?font, fun a ha _ => ?zero,
    fun j => ?fb, rfl, fun k => ?key, rfl, rfl, rfl, rfl, rfl, rfl⟩
  case v => simp [State.getV]
  case stack => simp
  case font => rw [State.init_mem, Memory.read_nil, dif_pos a.isLt]; rfl
  case zero => rw [State.init_mem, Memory.read_nil, dif_neg (by omega)]
  case fb => simp
  case key => simp [State.keyAt]

/-! ### The counter -/

theorem executeWord_cycles {w : Word} {s t : State} (h : executeWord w s = .next t) : t.cycles = s.cycles := by
  cases hd : decodeWord w with
  | ok i => exact exec_cycles (executeWord_instr hd s ▸ h)
  | error e =>
    rw [executeWord_unrecognized hd] at h
    cases h
    rfl

/-- The end of a STEP counts it if it raised no fault (R32). -/
theorem State.retire_cycles (t : State) :
    t.retire.cycles = if t.retire.fault = none then t.cycles + 1 else t.cycles := by
  rw [State.retire_fault]
  cases hf : t.fault with
  | none => rw [State.retire_running hf]; rfl
  | some f => rw [State.retire_faulted hf]; rfl

/-- A STEP counts itself when it ends without a fault, and never on a halted core (D20). -/
theorem cycle_cycles {r : Option Byte} {s t : State} (h : cycle r s = .next t) :
    t.cycles = if t.fault = none then s.cycles + 1 else s.cycles := by
  obtain ⟨⟨f, hf⟩, rfl⟩ | ⟨-, -, rfl⟩ | ⟨-, w, u, -, hu, rfl⟩ := cycle_cases h
  · rw [hf]; rfl
  · rw [State.retire_cycles, State.raise_cycles, State.setRnd_cycles]
  · rw [State.retire_cycles, executeWord_cycles hu, State.setRnd_cycles]

theorem step_cycles_of_nextIsStep {s t : State} (hs : s.nextIsStep) (h : step s = .next t) :
    t.cycles = if t.fault = none then s.cycles + 1 else s.cycles := by
  obtain ⟨r, hr⟩ := step_of_nextIsStep hs
  rw [cycle_cycles (hr.symm.trans h), State.setSchedule_cycles]

/-- An event that a halted core ignores keeps `cycles` if it does on a running one. -/
theorem State.unlessHalted_cycles {s : State} {k : State → State} (h : (k s).cycles = s.cycles) :
    (s.unlessHalted k).cycles = s.cycles := by
  unfold State.unlessHalted
  split
  · rfl
  · exact h

theorem State.loadEvent_cycles (bytes : List Byte) (s : State) : (s.loadEvent bytes).cycles = s.cycles := by
  unfold State.loadEvent
  split <;> rfl

theorem State.tickEvent_cycles (s : State) : s.tickEvent.cycles = s.cycles := by
  unfold State.tickEvent
  extract_lets t
  split <;> rfl

theorem handle_cycles {e : Event} {s t : State} (h : handle e s = .next t) (hs : ∀ b, e ≠ .step b) (hi : e ≠ .init) :
    t.cycles = s.cycles := by
  cases e with
  | step b => exact absurd rfl (hs b)
  | init => exact absurd rfl hi
  | load bytes => cases h; exact State.unlessHalted_cycles (s.loadEvent_cycles bytes)
  | tick => cases h; exact State.unlessHalted_cycles s.tickEvent_cycles
  | keyDown | keyUp | setDirty => cases h; exact State.unlessHalted_cycles rfl
  | getPixel | isDirty => cases h; rfl

/-- Settles O18: the two ends of a STEP, INIT, and the other events. -/
theorem cyclesCountsCompletedSteps : Obligations.CyclesCountsCompletedSteps := by
  refine ⟨fun s t hs h _ hf => ?_, fun s t hs h hf => ?_, fun s t es hs h => ?_, fun s t e es hs he hi h => ?_⟩
  · rw [step_cycles_of_nextIsStep hs h, if_pos hf]
  · rw [step_cycles_of_nextIsStep hs h, if_neg hf]
  · cases (step_init hs).symm.trans h
    rfl
  · rw [step_of_event hs] at h
    exact (handle_cycles h he hi).trans (s.setSchedule_cycles es)

end Sys2Proof.Machine
end

section
/-! SUPPORT. What the host is told and the counter `cycles` are read by no instruction (00_scope.md R9, 10_state.md
R32): two executions that differ in them alone go on differing in them alone. -/

namespace Sys2Proof.Machine

/-- The state with another value of `cycles` and another history of outputs. -/
def State.withCyclesAndHistory (s : State) (n : Nat) (h : List Output) : State :=
  { s with cycles := n, env := { s.env with history := h } }

/-- `t` follows from `s` with some outputs added, and `t'` is `t` with the counter and history of the other run, to
which the same outputs are added. -/
def SameButCyclesAndHistory (n : Nat) (h : List Output) (s t t' : State) : Prop :=
  ∃ out, t.cycles = s.cycles ∧ t.env.history = out ++ s.env.history ∧ t' = t.withCyclesAndHistory n (out ++ h)

namespace SameButCyclesAndHistory

variable {n : Nat} {h : List Output} {s t : State}

/-- A change that adds no output. -/
theorem quiet (hc : t.cycles = s.cycles) (hh : t.env.history = s.env.history) :
    SameButCyclesAndHistory n h s t (t.withCyclesAndHistory n h) := ⟨[], hc, hh, rfl⟩

/-- A fault adds FAULTED to both histories. -/
theorem raise (f : Fault) : SameButCyclesAndHistory n h s (s.raise f) ((s.withCyclesAndHistory n h).raise f) :=
  ⟨[.faulted f], rfl, rfl, rfl⟩

/-- An access with one result for both runs goes on in both or faults in both. -/
theorem attempt {α : Type} {r : Except Fault α} {k k' : α → State}
    (hk : ∀ a, SameButCyclesAndHistory n h s (k a) (k' a)) :
    SameButCyclesAndHistory n h s (s.attempt r k) ((s.withCyclesAndHistory n h).attempt r k') := by
  cases r with
  | ok a => exact hk a
  | error f => exact raise f

end SameButCyclesAndHistory

theorem State.setVs_withCyclesAndHistory (k : Nat) (bs : List Byte) (s : State) (n : Nat) (h : List Output) :
    State.setVs k bs (s.withCyclesAndHistory n h) = (State.setVs k bs s).withCyclesAndHistory n h := by
  induction bs generalizing k s with
  | nil => rfl
  | cons b bs ih => exact ih (k + 1) (s.setV (BitVec.ofNat 4 k) b)

theorem State.lowestKey_withCyclesAndHistory (s : State) (n : Nat) (h : List Output) :
    (s.withCyclesAndHistory n h).lowestKey = s.lowestKey := rfl

/-- Everything an instruction reads is the same in both runs; for the free byte of CXNN that is the count of draws
(log 2). -/
theorem exec_sameButCyclesAndHistory (i : Instr) (s : State) (n : Nat) (h : List Output) :
    ∃ t t', exec i s = .next t ∧ exec i (s.withCyclesAndHistory n h) = .next t' ∧
      SameButCyclesAndHistory n h s t t' := by
  cases i with
  | ret =>
    refine ⟨_, _, rfl, rfl, ?_⟩
    by_cases hsp : 0 < s.sp.val
    · rw [State.pop_ok s hsp, State.pop_ok (s.withCyclesAndHistory n h) hsp]
      exact .quiet rfl rfl
    · have hempty : s.sp.val = 0 := by omega
      rw [State.pop_empty s hempty, State.pop_empty (s.withCyclesAndHistory n h) hempty]
      exact .raise _
  | call =>
    refine ⟨_, _, rfl, rfl, ?_⟩
    by_cases hsp : s.sp.val < 16
    · rw [State.push_ok s _ hsp, State.push_ok (s.withCyclesAndHistory n h) _ hsp]
      exact .quiet rfl rfl
    · have hfull : s.sp.val = 16 := by omega
      rw [State.push_full s _ hfull, State.push_full (s.withCyclesAndHistory n h) _ hfull]
      exact .raise _
  | skp | sknp | drw | ldBVx | ldMemVx =>
    exact ⟨_, _, rfl, rfl, .attempt fun _ => .quiet rfl rfl⟩
  | ldVxMem =>
    refine ⟨_, _, rfl, rfl, .attempt fun bs => ?_⟩
    rw [State.setVs_withCyclesAndHistory]
    exact .quiet (by simp) (by simp)
  | ldVxK =>
    refine ⟨_, _, rfl, rfl, ?_⟩
    rw [State.lowestKey_withCyclesAndHistory]
    cases s.lowestKey with
    | none => exact .quiet rfl rfl
    | some k => exact .quiet rfl rfl
  | _ => exact ⟨_, _, rfl, rfl, .quiet rfl rfl⟩

/-- Settles O19: the outputs are those both runs add. -/
theorem noInstructionReadsCyclesOrHistory : Obligations.NoInstructionReadsCyclesOrHistory := by
  intro i s n h
  obtain ⟨t, _, ht, ht', out, hc, hh, rfl⟩ := exec_sameButCyclesAndHistory i s n h
  exact ⟨t, out, ht, hc, hh, ht'⟩

end Sys2Proof.Machine
end

section
/-! SUPPORT. The memory and its primitives (20_memory.md R50 to R58): the canonical form lists exactly the legal bytes
that differ from what INIT leaves, and the fetch and the byte primitives read and write single bytes. -/

namespace Sys2Proof.Machine

/-! ### The canonical form -/

/-- The cells of a canonical memory, told from what its addresses read as: the legal ones that do not read as INIT left
them. -/
theorem Memory.mem_cells_iff {m : Memory} (h : m.wf) (a : Nat) (v : Byte) :
    (a, v) ∈ m.cells ↔ a ≤ 0xFFF ∧ m.read a = v ∧ v ≠ m.background a := by
  obtain ⟨hrising, hlegal⟩ := h
  constructor
  · intro hm
    obtain ⟨ha, hv⟩ := hlegal (a, v) hm
    exact ⟨ha, by rw [Memory.read, lookupCell_of_mem hrising hm, Option.getD_some], hv⟩
  · rintro ⟨-, hread, hv⟩
    cases hl : lookupCell a m.cells with
    | some w =>
      rw [Memory.read, hl, Option.getD_some] at hread
      exact hread ▸ mem_of_lookupCell hl
    | none =>
      rw [Memory.read, hl, Option.getD_none] at hread
      exact absurd hread.symm hv

/-- A list of cells that rises strictly is determined by its members. -/
theorem cells_eq_of_mem_iff {cs ds : List Host.Cell} (hc : cs.Pairwise (fun p q => p.1 < q.1))
    (hd : ds.Pairwise (fun p q => p.1 < q.1)) (h : ∀ c, c ∈ cs ↔ c ∈ ds) : cs = ds := by
  have : Std.Irrefl fun p q : Host.Cell => p.1 < q.1 := ⟨fun _ => lt_irrefl _⟩
  have : Std.Antisymm fun p q : Host.Cell => p.1 < q.1 := ⟨fun _ _ hpq hqp => absurd hqp (lt_asymm hpq)⟩
  exact hc.eq_of_mem_iff hd h

/-- Settles O10: both cell lists rise strictly and have the same members, which are told from the reads. -/
theorem equalMemoriesAreEqualData : Obligations.EqualMemoriesAreEqualData := by
  intro m n hm hn hfont hread
  have hbackground (a : Nat) : m.background a = n.background a := by rw [Memory.background, hfont, Memory.background]
  have hmem (c : Host.Cell) : c ∈ m.cells ↔ c ∈ n.cells := by
    obtain ⟨a, v⟩ := c
    rw [Memory.mem_cells_iff hm, Memory.mem_cells_iff hn, hbackground]
    exact and_congr_right fun ha => by rw [hread a ha]
  have hcells : m.cells = n.cells := cells_eq_of_mem_iff hm.1 hn.1 hmem
  cases m
  cases n
  cases hfont
  cases hcells
  rfl

/-! ### The primitives -/

/-- `MemRead` above the last address (20_memory.md R57). -/
theorem Memory.memRead_fault (m : Memory) {a : Nat} (h : 0xFFF < a) : m.memRead a = .error (.memOutOfRange a) :=
  if_pos h

/-- `MemWrite` above the last address (R58). -/
theorem Memory.memWrite_fault (m : Memory) {a : Nat} (h : 0xFFF < a) (v : Byte) :
    m.memWrite a v = .error (.memOutOfRange a) :=
  if_pos h

/-- Settles O9: the two primitives on each side of the last address, and the write read back. -/
theorem bytePrimitivesReadAndWriteOneByte : Obligations.BytePrimitivesReadAndWriteOneByte := by
  intro m a v
  refine ⟨fun h => ⟨m.memRead_fault h, m.memWrite_fault h v⟩, fun h => ⟨m.memRead_ok h, m.write a v, ?_, ?_, ?_⟩⟩
  · exact m.memWrite_ok h v
  · rw [Memory.read_write, if_pos rfl]
  · intro b hb
    rw [Memory.read_write, if_neg hb]

/-- Settles O8: the fetch on each side of the last address that has a second byte. -/
theorem fetchReadsABigEndianWord : Obligations.FetchReadsABigEndianWord := by
  intro m pc
  refine ⟨fun h => m.fetch16_fault (by omega), fun h => ⟨_, m.fetch16_ok (by omega), ?_⟩⟩
  rw [wordOfBytes_toNat]

/-! ### Stores into the instruction stream -/

/-- Bytes stored at I, told by what each is: the memory then reads as `State.storedOver` says. -/
theorem State.read_writeAll_eq_storedOver (s : State) {bs : List Byte} {g : Nat → Byte}
    (hg : ∀ k, k < bs.length → bs[k]? = some (g k)) (a : Nat) :
    (Memory.writeAll s.i.toNat bs s.mem).read a = s.storedOver bs.length g a := by
  rw [Memory.read_writeAll, State.storedOver]
  by_cases hlo : s.i.toNat ≤ a
  · by_cases hhi : a < s.i.toNat + bs.length
    · rw [if_pos hlo, if_pos ⟨hlo, hhi⟩, hg _ (by omega), Option.getD_some]
    · rw [if_pos hlo, if_neg (by omega), List.getElem?_eq_none (by omega), Option.getD_none]
  · rw [if_neg hlo, if_neg (by omega)]

/-- The fetch after a store that fits: the word is made of the bytes as they then stand (R65). -/
theorem fetch16_after_store (s : State) {bs : List Byte} {n : Nat} {g : Nat → Byte} (hn : bs.length = n) (hpos : 0 < n)
    (hg : ∀ k, k < n → bs[k]? = some (g k)) (hfit : s.i.toNat + n ≤ 0x1000) {p : Word} (hp : p.toNat ≤ 0xFFE) :
    (s.attempt (Memory.memWrites (s.dataAddress 0) bs s.mem) fun m => (s.setMem m).advance).mem.fetch16 p =
      .ok (wordOfBytes (s.storedOver n g p.toNat) (s.storedOver n g (p.toNat + 1))) := by
  subst hn
  rw [attempt_memWrites s bs (List.length_pos_iff.1 hpos), if_pos hfit, State.advance_mem, State.setMem_mem,
    Memory.fetch16_ok _ hp, s.read_writeAll_eq_storedOver hg, s.read_writeAll_eq_storedOver hg]

/-- The three digits are the decimal digits of the byte, hundreds first (42_index_memory.md R153). -/
theorem bcdDigits_getElem? (b : Byte) {k : Nat} (hk : k < 3) :
    (bcdDigits b)[k]? = some (BitVec.ofNat 8 (b.toNat / 10 ^ (2 - k) % 10)) := by
  have hb := b.isLt
  have hdigit (d : Byte) (n : Nat) (h : d.toNat = n) : some d = some (BitVec.ofNat 8 n) := by
    rw [← h, BitVec.ofNat_toNat, BitVec.setWidth_eq]
  match k with
  | 0 => exact hdigit (b / 100) _ (by simp; omega)
  | 1 => exact hdigit (b / 10 % 10) _ (by simp)
  | 2 => exact hdigit (b % 10) _ (by simp)

/-- Settles O48: FX33 stores the digits, FX55 the registers, and the fetch reads the memory they leave. -/
theorem storedBytesAreFetchedNext : Obligations.StoredBytesAreFetchedNext := by
  intro s x
  refine ⟨fun h => ⟨_, rfl, fun p hp => ?bcd⟩, fun h => ⟨_, rfl, fun p hp => ?registers⟩⟩
  case bcd => exact fetch16_after_store s (n := 3) rfl (by decide) (fun k hk => bcdDigits_getElem? _ hk) (by omega) hp
  case registers =>
    exact fetch16_after_store s (s.getVs_length _) (Nat.succ_pos _) (fun k hk => s.getVs_getElem? _ k hk) (by omega) hp

end Sys2Proof.Machine
end

section
/-! SUPPORT. The events that fill memory or fetch from it: LOAD (20_memory.md R60), the placing of a word (log 6), and
the STEP whose fetch is out of range (R56). -/

namespace Sys2Proof.Machine

/-! ### Frames of the environment -/

namespace KeepsFrame

variable {ps : List Piece} {s t : State}

theorem setSchedule (h : KeepsFrame ps s t) {es : List Event} (he : .env ∈ ps := by simp) :
    KeepsFrame ps s (t.setSchedule es) :=
  h.trans ⟨fun q hq => by cases q <;> simp_all [Unchanged], rfl⟩

theorem setRnd (h : KeepsFrame ps s t) {r : Option Byte} (he : .env ∈ ps := by simp) :
    KeepsFrame ps s (t.setRnd r) :=
  h.trans ⟨fun q hq => by cases q <;> simp_all [Unchanged], rfl⟩

theorem emit (h : KeepsFrame ps s t) {o : Output} (he : .env ∈ ps := by simp) : KeepsFrame ps s (t.emit o) :=
  h.trans ⟨fun q hq => by cases q <;> simp_all [Unchanged], rfl⟩

theorem raise (h : KeepsFrame ps s t) {f : Fault} (hf : .fault ∈ ps := by simp) (he : .env ∈ ps := by simp) :
    KeepsFrame ps s (t.raise f) :=
  h.trans ⟨fun q hq => by cases q <;> simp_all [Unchanged], rfl⟩

end KeepsFrame

/-! ### LOAD -/

/-- LOAD on a running core (R60, D25). -/
theorem step_load {s : State} {bytes : List Byte} {es : List Event} (hf : s.fault = none)
    (h : s.env.schedule = .load bytes :: es) : step s = .next ((s.setSchedule es).loadEvent bytes) := by
  rw [step_of_event h, handle, State.unlessHalted, State.setSchedule_halted, State.halted_eq_false.2 hf]
  rfl

/-- A program that fits is written from 0x200 on (R60). -/
theorem State.loadEvent_fits {bytes : List Byte} (s : State) (h : bytes.length ≤ 0xE00) :
    s.loadEvent bytes = (s.setMem (Memory.writeAll 0x200 bytes s.mem)).emit .loadOk :=
  if_pos (decide_eq_true h)

/-- A program that does not fit is answered with the capacity error (R60). -/
theorem State.loadEvent_tooLong {bytes : List Byte} (s : State) (h : 0xE00 < bytes.length) :
    s.loadEvent bytes = s.emit .loadCapacityExceeded :=
  if_neg (by simpa [programFits] using h)

/-- Settles O24: the two answers of LOAD, and the writes read back inside and outside of the program. -/
theorem loadWritesTheProgramOrNothing : Obligations.LoadWritesTheProgramOrNothing := by
  intro s bytes es hf hs
  rw [step_load hf hs]
  refine ⟨fun h => by rw [State.loadEvent_tooLong _ h], fun h => ?_⟩
  rw [State.loadEvent_fits _ h]
  refine ⟨_, rfl, fun j b hj => ?program, fun a ha => ?outside, rfl, ?frame⟩
  case program =>
    rw [State.emit_mem, State.setMem_mem, Memory.read_writeAll, if_pos (Nat.le_add_right _ _), Nat.add_sub_cancel_left,
      hj, Option.getD_some]
  case outside =>
    rw [State.emit_mem, State.setMem_mem, Memory.read_writeAll, State.setSchedule_mem]
    rcases ha with hbelow | habove
    · rw [if_neg (by omega)]
    · rw [if_pos (by omega), List.getElem?_eq_none (by omega), Option.getD_none]
  case frame => exact ((KeepsFrame.refl s).setSchedule.setMem (Memory.writeAll_font ..)).emit.frame

/-! ### The placing of a word -/

/-- The two bytes of a word make it again (R55). -/
theorem wordOfBytes_highByte_lowByte (w : Word) : wordOfBytes (highByte w) (lowByte w) = w := by
  apply BitVec.eq_of_toNat_eq
  rw [wordOfBytes_toNat, highByte, lowByte, BitVec.extractLsb'_toNat, BitVec.extractLsb'_toNat]
  omega

theorem fetchSite_le (pc : Word) : (fetchSite pc).toNat ≤ 0xFFE := by
  unfold fetchSite
  split
  · assumption
  · decide

theorem fetchSite_of_le {pc : Word} (h : pc.toNat ≤ 0xFFE) : fetchSite pc = pc := if_pos h

/-- The placed word stands at the address of the fetch, and every other byte is as before. -/
theorem State.placeWord_read (s : State) (w : Word) (a : Nat) :
    (s.placeWord w).mem.read a =
      if a = (fetchSite s.pc).toNat + 1 then lowByte w
      else if a = (fetchSite s.pc).toNat then highByte w else s.mem.read a := by
  simp only [State.placeWord, Memory.read_write]

theorem State.placeWord_fetch16 (s : State) (w : Word) :
    (s.placeWord w).mem.fetch16 (s.placeWord w).pc = .ok w := by
  rw [show (s.placeWord w).pc = fetchSite s.pc from rfl, Memory.fetch16_ok _ (fetchSite_le s.pc), State.placeWord_read,
    State.placeWord_read, if_neg (by omega), if_pos rfl, if_pos rfl, wordOfBytes_highByte_lowByte]

/-- Settles O7: the placed word fetched, and the bytes and pieces that stay. -/
theorem placedWordIsFetchedNext : Obligations.PlacedWordIsFetchedNext := by
  intro s nbits w
  rw [State.withFetchWord]
  refine ⟨rfl, rfl, s.placeWord_fetch16 _, fun h => ?_⟩
  have hpc : (s.placeWord (BitVec.ofNat 16 (w % 2 ^ nbits))).pc = s.pc := fetchSite_of_le h
  refine ⟨hpc, fun p hp => ?frame, fun a hlow hhigh => ?bytes⟩
  case frame =>
    cases p with
    | pc => exact hpc
    | mem | fault | env => simp at hp
    | v => exact fun _ => rfl
    | _ => rfl
  case bytes => rw [State.placeWord_read, fetchSite_of_le h, if_neg hhigh, if_neg hlow]

/-! ### The fetch past the end -/

/-- Settles O11: the STEP takes its event, raises the fault and drops its payload. -/
theorem fetchPastTheEndHaltsTheCore : Obligations.FetchPastTheEndHaltsTheCore := by
  intro s hs hf hpc
  obtain ⟨r, hr⟩ := step_of_nextIsStep hs
  have hstep := hr.trans (cycle_fetch_fault (s := s.setSchedule s.env.schedule.tail) hf hpc r)
  rw [State.retire_faulted (State.raise_fault _ _)] at hstep
  exact ⟨_, hstep, rfl, rfl, (KeepsFrame.refl s).setSchedule.setRnd.raise.setRnd.frame⟩

end Sys2Proof.Machine
end

section
/-! SUPPORT. Decode and encode agree (30_encoding.md R80 to R86): decoding undoes encoding, a word that decodes is the
encoding of what it decodes to, and a word that does not is of a form that R86 lists. The opcode table follows, since
the encoding of an instruction holds the literal bits of its row. -/

namespace Sys2Proof

/-! ### Decoding undoes encoding -/

theorem decodeWord_encode (i : Instr) : decodeWord (encode i) = .ok i := by
  cases i with
  | cls | ret => decide
  | _ => simp [encode, decodeWord]

theorem decodeBytes_highByte_lowByte (w : Word) (rest : List Byte) :
    decodeBytes (highByte w :: lowByte w :: rest) = (decodeWord w).map fun i => (i, rest) := by
  rw [decodeBytes, Machine.wordOfBytes_highByte_lowByte]
  cases decodeWord w <;> rfl

/-- Settles O1: the round trip of a word, and the two bytes that make it up. -/
theorem decodeOfEncodeIsTheInstruction : Obligations.DecodeOfEncodeIsTheInstruction := fun i =>
  ⟨decodeWord_encode i, fun rest => by rw [decodeBytes_highByte_lowByte, decodeWord_encode]; rfl⟩

/-! ### What a word decodes to -/

section literals
variable {w : Word} {family : BitVec 4} (hf : fieldFamily w = family)
include hf

theorem formatA_of_literals : formatA family (fieldNNN w) = w := hf ▸ formatA_fields w

theorem formatRI_of_literals : formatRI family (fieldX w) (fieldNN w) = w := hf ▸ formatRI_fields w

theorem formatR_of_literals {sub : Byte} (hs : fieldNN w = sub) : formatR family (fieldX w) sub = w :=
  hf ▸ hs ▸ formatR_fields w

theorem formatRR_of_literals {n : BitVec 4} (hn : fieldN w = n) : formatRR family (fieldX w) (fieldY w) n = w :=
  hf ▸ hn ▸ formatRR_fields w

end literals

/-- The list of R86 in the fields of the word, family by family. -/
def UnrecognizedForm (w : Word) : Prop :=
  (fieldFamily w = 0x0#4 ∧ fieldNNN w ∉ [0x0E0#12, 0x0EE#12]) ∨
  (fieldFamily w = 0x5#4 ∧ fieldN w ≠ 0x0#4) ∨
  (fieldFamily w = 0x8#4 ∧ fieldN w ∉ [0x0#4, 0x1#4, 0x2#4, 0x3#4, 0x4#4, 0x5#4, 0x6#4, 0x7#4, 0xE#4]) ∨
  (fieldFamily w = 0x9#4 ∧ fieldN w ≠ 0x0#4) ∨
  (fieldFamily w = 0xE#4 ∧ fieldNN w ∉ [0x9E#8, 0xA1#8]) ∨
  (fieldFamily w = 0xF#4 ∧ fieldNN w ∉ [0x07#8, 0x0A#8, 0x15#8, 0x18#8, 0x1E#8, 0x29#8, 0x33#8, 0x55#8, 0x65#8])

/-- What may be said of the result of decoding a word: an instruction has that word, and no word is rejected but by its
own name and for its form. -/
def DecodesSoundly (w : Word) : Except Reject Instr → Prop
  | .ok i => encode i = w
  | .error e => e = .unrecognized w ∧ UnrecognizedForm w

/-- A branch of the decoder that answers an instruction has matched all its literal digits. The branches that reject are
the last ones of the families that read more than themselves: 0, F (whose digit is left over when no other matches), and
5, 8, 9 and E. -/
theorem decodeWord_sound (w : Word) : DecodesSoundly w (decodeWord w) := by
  unfold decodeWord
  split
  case h_1 hf => -- family 0
    split
    case h_3 => simp_all [DecodesSoundly, UnrecognizedForm]
    all_goals exact (congrArg (formatA 0x0#4) ‹_›).symm.trans (formatA_of_literals hf)
  case h_16 => -- family F
    have hf : fieldFamily w = 0xF#4 := by
      simp only [imp_false] at *
      bv_omega
    split
    case h_10 => simp_all [DecodesSoundly, UnrecognizedForm]
    all_goals exact formatR_of_literals hf ‹_›
  case h_6 | h_9 | h_10 | h_15 => -- families 5, 8, 9 and E
    split <;> simp_all [DecodesSoundly, UnrecognizedForm, encode, formatRR_of_literals, formatR_of_literals]
  all_goals simp [DecodesSoundly, encode, formatA_of_literals, formatRI_of_literals, formatRR_of_literals, *]

theorem encode_of_decodeWord {w : Word} {i : Instr} (h : decodeWord w = .ok i) : encode i = w := by
  have hs := decodeWord_sound w
  rwa [h] at hs

theorem decodeWord_error {w : Word} {e : Reject} (h : decodeWord w = .error e) :
    e = .unrecognized w ∧ UnrecognizedForm w := by
  have hs := decodeWord_sound w
  rwa [h] at hs

/-- Settles O2: by the branch of the decoder that read the instruction. -/
theorem encodeOfDecodeIsTheWord : Obligations.EncodeOfDecodeIsTheWord := fun _ _ => encode_of_decodeWord

/-! ### The words that do not decode -/

theorem not_unrecognizedForm_encode (i : Instr) : ¬ UnrecognizedForm (encode i) := by
  unfold UnrecognizedForm
  cases i with
  | cls | ret => decide
  | _ => simp [encode]

theorem decodeWord_unrecognized_iff (w : Word) : decodeWord w = .error (.unrecognized w) ↔ UnrecognizedForm w := by
  refine ⟨fun h => (decodeWord_error h).2, fun hform => ?_⟩
  cases h : decodeWord w with
  | ok i => exact absurd (encode_of_decodeWord h ▸ hform) (not_unrecognizedForm_encode i)
  | error e => rw [(decodeWord_error h).1]

/-- Settles O4: the list in the fields of the word, read as numbers. Families 0 and 8 are told otherwise in R86 than by
the decoder: family 0 by the whole word, and family 8 by the last nibbles that no row lists. -/
theorem unrecognizedWordsAreThoseListed : Obligations.UnrecognizedWordsAreThoseListed := by
  intro w
  rw [decodeWord_unrecognized_iff]
  simp only [UnrecognizedForm, ← BitVec.toNat_inj, fieldFamily_toNat, fieldN_toNat, fieldNN_toNat, fieldNNN_toNat,
    BitVec.reduceToNat, List.mem_cons, List.not_mem_nil, or_false, ne_eq]
  refine or_congr ?family0 (or_congr .rfl (or_congr ?family8 .rfl))
  case family0 => omega
  case family8 => omega

/-! ### The rows of the opcode table -/

theorem Instr.row_mem_opcodeTable (i : Instr) : i.row ∈ opcodeTable := by
  cases i <;> simp [opcodeTable, Instr.row]

theorem exists_row_of_mem_opcodeTable : ∀ r ∈ opcodeTable, ∃ i : Instr, i.row = r := by
  simp [opcodeTable]

theorem Instr.row_mask (i : Instr) : i.row.mask = i.row.format.mask := by cases i <;> rfl

/-- The encoding of an instruction satisfies its row. -/
theorem encode_and_mask (i : Instr) : encode i &&& i.row.mask = i.row.code := by
  cases i <;> simp [encode, Instr.row, formatA_mask, formatRI_mask, formatR_mask, formatRR_mask, formatRRN_mask] <;> rfl

/-! ### A word that satisfies a row -/

theorem fieldFamily_and (w m : Word) : fieldFamily (w &&& m) = fieldFamily w &&& fieldFamily m :=
  BitVec.extractLsb'_and ..
theorem fieldN_and (w m : Word) : fieldN (w &&& m) = fieldN w &&& fieldN m := BitVec.extractLsb'_and ..
theorem fieldNN_and (w m : Word) : fieldNN (w &&& m) = fieldNN w &&& fieldNN m := BitVec.extractLsb'_and ..

theorem fieldFamily_mask (f : Format) : fieldFamily f.mask = 0xF#4 := by cases f <;> decide
theorem fieldN_mask_RR : fieldN Format.RR.mask = 0xF#4 := by decide
theorem fieldNN_mask_R : fieldNN Format.R.mask = 0xFF#8 := by decide

section satisfies
variable {w : Word} {i : Instr} (h : w &&& i.row.mask = i.row.code)
include h

/-- A word that satisfies the row of `i` has the literal bits of the word of `i`. -/
theorem and_mask_eq_encode_and_mask : w &&& i.row.format.mask = encode i &&& i.row.format.mask := by
  rw [← i.row_mask, h, encode_and_mask]

theorem eq_encode_of_row (hr : i.row.format = .L) : w = encode i := by
  have hw := and_mask_eq_encode_and_mask h
  rw [hr] at hw
  exact BitVec.and_allOnes.symm.trans (hw.trans BitVec.and_allOnes)

theorem fieldFamily_of_row : fieldFamily w = fieldFamily (encode i) := by
  have hw := congrArg fieldFamily (and_mask_eq_encode_and_mask h)
  rwa [fieldFamily_and, fieldFamily_and, fieldFamily_mask, and_F, and_F] at hw

theorem fieldN_of_row (hr : i.row.format = .RR) : fieldN w = fieldN (encode i) := by
  have hw := congrArg fieldN (and_mask_eq_encode_and_mask h)
  rwa [fieldN_and, fieldN_and, hr, fieldN_mask_RR, and_F, and_F] at hw

theorem fieldNN_of_row (hr : i.row.format = .R) : fieldNN w = fieldNN (encode i) := by
  have hw := congrArg fieldNN (and_mask_eq_encode_and_mask h)
  rwa [fieldNN_and, fieldNN_and, hr, fieldNN_mask_R, and_FF, and_FF] at hw

/-- What the decoder reads beyond the family follows the format of the row: the whole word in format L, nothing in
formats A, RI and RRN, the last nibble in RR and the low byte in R. -/
theorem decodeWord_of_row : ∃ j, decodeWord w = .ok j ∧ j.row = i.row := by
  have hf := fieldFamily_of_row h
  have hn := fieldN_of_row h
  have hnn := fieldNN_of_row h
  cases i with
  | cls | ret => exact ⟨_, eq_encode_of_row h rfl ▸ decodeWord_encode _, rfl⟩
  | jp | call | ldINnn | jpV0Nnn | seVxNn | sneVxNn | ldVxNn | addVxNn | rnd | drw =>
    simp only [encode, fieldFamily_formatA, fieldFamily_formatRI, fieldFamily_formatRR] at hf
    simp [decodeWord, hf, Instr.row]
  | seVxVy | sneVxVy | ldVxVy | or | and | xor | addVxVy | sub | shr | subn | shl =>
    simp only [encode, fieldFamily_formatRR, fieldN_formatRR] at hf hn
    simp [decodeWord, hf, hn rfl, Instr.row]
  | _ =>
    simp only [encode, fieldFamily_formatR, fieldNN_formatR] at hf hnn
    simp [decodeWord, hf, hnn rfl, Instr.row]

end satisfies

/-! ### Decode and the table -/

theorem row_of_decodeWord {w : Word} {i : Instr} (h : decodeWord w = .ok i) :
    i.row ∈ opcodeTable ∧ w &&& i.row.mask = i.row.code :=
  ⟨i.row_mem_opcodeTable, encode_of_decodeWord h ▸ encode_and_mask i⟩

theorem decodeWord_of_mem_opcodeTable {w : Word} {r : OpRow} (hr : r ∈ opcodeTable) (h : w &&& r.mask = r.code) :
    ∃ i, decodeWord w = .ok i ∧ i.row = r := by
  obtain ⟨i, rfl⟩ := exists_row_of_mem_opcodeTable r hr
  exact decodeWord_of_row h

/-- Two rows that one word satisfies are the row of what it decodes to. -/
theorem row_unique {w : Word} {r q : OpRow} (hr : r ∈ opcodeTable) (hq : q ∈ opcodeTable)
    (hwr : w &&& r.mask = r.code) (hwq : w &&& q.mask = q.code) : r = q := by
  obtain ⟨i, hi, rfl⟩ := decodeWord_of_mem_opcodeTable hr hwr
  obtain ⟨j, hj, rfl⟩ := decodeWord_of_mem_opcodeTable hq hwq
  rw [Except.ok.inj (hi.symm.trans hj)]

/-- Settles O3: the rows are disjoint since they are distinct and a word decodes to one instruction. -/
theorem decodeFollowsTheOpcodeTable : Obligations.DecodeFollowsTheOpcodeTable := by
  refine ⟨fun _ _ => row_of_decodeWord, fun _ _ => decodeWord_of_mem_opcodeTable, fun w hnone => ?norow, rfl,
    ?disjoint⟩
  case norow =>
    cases h : decodeWord w with
    | ok i => exact absurd (row_of_decodeWord h).2 (hnone _ i.row_mem_opcodeTable)
    | error e => rw [(decodeWord_error h).1]
  case disjoint =>
    have hdistinct : opcodeTable.Nodup := by decide
    exact hdistinct.imp_of_mem fun hr hq hne _ ⟨hwr, hwq⟩ => hne (row_unique hr hq hwr hwq)

/-- Settles O5: each word is a literal, and decoding it is a computation. -/
theorem sampleWordsDecode : Obligations.SampleWordsDecode := by
  unfold Obligations.SampleWordsDecode
  decide

end Sys2Proof
end

section
/-! SUPPORT. A STEP of a running core that fetches a word (30_encoding.md R87, R88): its instruction and the end of the
STEP, or the report of an UNRECOGNIZED word. -/

namespace Sys2Proof.Machine

/-- Settles O6: the STEP with and without an event waiting, and the end of a STEP. -/
theorem stepRunsTheDecodedInstruction : Obligations.StepRunsTheDecodedInstruction := by
  refine ⟨fun s w i hf hw hi => ⟨fun hs => ?empty, fun b es hs => ?event⟩,
    fun _ ht => congrArg _ (State.retire_running ht), fun _ _ ht => congrArg _ (State.retire_faulted ht),
    fun _ => rfl, fun _ => rfl⟩
  case empty => rw [step_of_empty hs, cycle_fetched hf hw, executeWord_instr hi]
  case event => rw [step_of_event hs, handle, cycle_fetched (s := s.setSchedule es) hf hw, executeWord_instr hi]

/-- The end of a STEP changes `cycles` and the payload at most. -/
theorem KeepsFrame.retire {ps : List Piece} {s t : State} (h : KeepsFrame ps s t) (hc : .cycles ∈ ps := by simp)
    (he : .env ∈ ps := by simp) : KeepsFrame ps s t.retire := by
  unfold State.retire
  split
  · exact h.setRnd he
  · exact (h.setRnd (r := none) he).trans ⟨fun p hp => by cases p <;> simp_all [Unchanged], rfl⟩

/-- Settles O12: the STEP takes its event, reports the word, advances PC, and ends without a fault. -/
theorem unrecognizedWordIsReportedAndSkipped : Obligations.UnrecognizedWordIsReportedAndSkipped := by
  intro s w hs hf hw hd
  obtain ⟨r, hr⟩ := step_of_nextIsStep hs
  rw [cycle_fetched (s := s.setSchedule s.env.schedule.tail) hf hw, executeWord_unrecognized hd] at hr
  have hend := State.retire_running (t := ((s.setSchedule s.env.schedule.tail).setRnd r).reportWord w) hf
  refine ⟨_, hr, ?_, ?_, ?_, (KeepsFrame.refl s).setSchedule.setRnd.emit.advance.retire.frame⟩
  all_goals rw [hend]; rfl

end Sys2Proof.Machine
end

section
/-! SUPPORT. The control flow instructions (40_control_flow.md): the jumps and skips, which write PC alone, the call and
the return, each with its fault, and the jump to itself, at which a run goes on without one (70_reset_and_hazards.md
R243). -/

namespace Sys2Proof.Machine

/-! ### Jumps -/

/-- Settles O32: by the frame of a write of PC. -/
theorem jumpSetsPcToTheImmediate : Obligations.JumpSetsPcToTheImmediate := fun s nnn =>
  ⟨_, rfl, zextImm_toNat nnn, (KeepsFrame.refl s).setPc.frame⟩

/-- Settles O35: by the frame of a write of PC, since the 16-bit sum does not wrap. -/
theorem jumpV0AddsV0ToTheImmediate : Obligations.JumpV0AddsV0ToTheImmediate := fun s nnn =>
  ⟨_, rfl, zextImm_add_zextByte_toNat nnn (s.getV 0), (KeepsFrame.refl s).setPc.frame⟩

/-! ### Skips -/

/-- The effect of an instruction that is a skip on the condition `p` (40_control_flow.md R119). -/
theorem exec_skip {i : Instr} {s : State} {c : Bool} {p : Prop} [Decidable p] (h : exec i s = .next (s.skipIf c))
    (hc : c = true ↔ p) :
    ∃ t, exec i s = .next t ∧ t.pc = (if p then s.pc + 4 else s.pc + 2) ∧ UnchangedExcept [.pc] s t :=
  ⟨_, h, if_congr hc rfl rfl, (KeepsFrame.refl s).skipIf.frame⟩

/-- Settles O36: the four are skips, and differ in the condition. -/
theorem skipsCompareRegisters : Obligations.SkipsCompareRegisters := fun _ _ _ _ =>
  ⟨exec_skip rfl beq_iff_eq, exec_skip rfl bne_iff_ne, exec_skip rfl beq_iff_eq, exec_skip rfl bne_iff_ne⟩

/-! ### Call and return -/

/-- Raising a fault is its whole effect (60_exceptions.md R213, R218). -/
theorem State.raise_raisesOnly (s : State) (f : Fault) : RaisesOnly s (s.raise f) f :=
  ⟨rfl, rfl, (KeepsFrame.refl s).raise.frame⟩

/-- 2NNN pushes the address after it, or raises the fault of the push (40_control_flow.md R112). -/
theorem exec_call (nnn : Imm12) (s : State) :
    exec (.call nnn) s = .next (s.attempt (s.push (s.pc + 2)) fun u => u.setPc (zextImm nnn)) := rfl

/-- 00EE goes to the popped address itself, or raises the fault of the pop (R110). -/
theorem exec_ret (s : State) : exec .ret s = .next (s.attempt s.pop fun p => p.2.setPc p.1) := rfl

/-- Settles O33: the push with room and the push on the full stack. -/
theorem callPushesTheReturnAddress : Obligations.CallPushesTheReturnAddress := by
  intro s nnn
  refine ⟨fun hroom => ?room, fun hfull => ?full⟩
  case room =>
    have hpush := s.push_ok (s.pc + 2) hroom
    rw [exec_call, hpush]
    refine ⟨_, rfl, rfl, zextImm_toNat nnn, fun j => ?_, ((KeepsFrame.refl s).push hpush).setPc.frame⟩
    simp only [State.attempt_ok, State.setPc_stack, Fin.getElem_fin, Vector.getElem_set, eq_comm]
  case full =>
    rw [exec_call, s.push_full _ hfull]
    exact ⟨_, rfl, s.raise_raisesOnly _⟩

/-- Settles O31: the pop of a stack that holds an address and the pop of the empty one. -/
theorem returnPopsTheReturnAddress : Obligations.ReturnPopsTheReturnAddress := by
  intro s
  refine ⟨fun j hj => ?stacked, fun hempty => ?empty⟩
  case stacked =>
    have hpop := s.pop_ok (by omega)
    have hslot : s.sp.val - 1 = j.val := by omega
    rw [exec_ret, hpop]
    refine ⟨_, rfl, hslot, ?_, ((KeepsFrame.refl s).pop hpop).setPc.frame⟩
    simp only [State.attempt_ok, State.setPc_pc, hslot, Fin.getElem_fin]
  case empty =>
    rw [exec_ret, s.pop_empty hempty]
    exact ⟨_, rfl, s.raise_raisesOnly _⟩

/-- Settles O34: the call fills the slot of SP and counts it, so the return finds the call's address in that slot, counts
it off again, and leaves the stack as the call did. -/
theorem callThenReturnComesBack : Obligations.CallThenReturnComesBack := by
  intro s nnn hroom
  obtain ⟨t, hcall, hsp, -, hstack, hframe⟩ := (callPushesTheReturnAddress s nnn).1 hroom
  obtain ⟨u, hret, husp, hupc, huframe⟩ := (returnPopsTheReturnAddress t).1 ⟨s.sp.val, hroom⟩ hsp.symm
  have hustack : u.stack = t.stack := huframe .stack (by simp)
  refine ⟨t, u, hcall, hret, ?pc, Fin.ext husp, fun p hp => ?frame, fun j hj => ?others⟩
  case pc => rw [hupc, hstack, if_pos rfl]
  case frame =>
    by_cases h : p = .sp
    · exact h ▸ Fin.ext husp
    · exact (hframe p (by simp_all)).trans (huframe p (by simp_all))
  case others => rw [hustack, hstack, if_neg hj]

/-! ### A jump to itself -/

/-- A STEP of a running core at a jump to itself: no fault, and PC, memory and the events after it as before, so the core
is again at that jump (R111, R243). -/
theorem step_of_atSelfJump {s : State} (hs : s.nextIsStep) (hf : s.fault = none) (hj : s.atSelfJump) :
    ∃ t, step s = .next t ∧ t.fault = none ∧ t.atSelfJump ∧ t.env.schedule = s.env.schedule.tail := by
  obtain ⟨w, nnn, hw, hd, hself⟩ := hj
  obtain ⟨r, hr⟩ := step_of_nextIsStep hs
  rw [cycle_fetched (s := s.setSchedule s.env.schedule.tail) hf hw, executeWord_instr hd] at hr
  refine ⟨_, hr, ?_⟩
  rw [State.retire_eq]
  exact ⟨hf, ⟨w, nnn, hself.symm ▸ hw, hd, rfl⟩, rfl⟩

theorem nextIsStep_of_forall_step {s : State} (h : ∀ e ∈ s.env.schedule, ∃ b, e = .step b) : s.nextIsStep := by
  cases hs : s.env.schedule with
  | nil => exact .inl hs
  | cons e es =>
    obtain ⟨b, rfl⟩ := h e (by simp [hs])
    exact .inr ⟨b, es, hs⟩

/-- Settles O30: by induction on the number of STEPs, each of which leads back to the jump. -/
theorem selfJumpIsSafeForever : Obligations.SelfJumpIsSafeForever := by
  intro k
  induction k with
  | zero => exact fun _ hf _ _ => hf
  | succ k ih =>
    intro s hf hj hs
    obtain ⟨t, hstep, htf, htj, hts⟩ := step_of_atSelfJump (nextIsStep_of_forall_step hs) hf hj
    exact ⟨hf, t, hstep, ih t htf htj fun e he => hs e (List.mem_of_mem_tail (hts ▸ he))⟩

end Sys2Proof.Machine
end

section
/-! SUPPORT. The loads and the arithmetic-logic instructions (41_alu.md): those that write VX alone, and those that
write VF first and then VX from the registers as they then stand (R142, the spec's decision D9). -/

namespace Sys2Proof.Machine

/-! ### One register -/

/-- `V[x] <- b; PC <- PC + 2` writes one register. -/
theorem State.setV_advance_writesOneRegister (s : State) (x : Reg) (b : Byte) :
    WritesOneRegister s (s.setV x b).advance x b :=
  ⟨by simp, fun _ hr => State.getV_setV_of_ne hr, rfl, (KeepsFrame.refl s).setV.advance.frame⟩

/-- Settles O37: each of the three is a write of VX, and the sum of 7XNN is the sum of bytes. -/
theorem loadsAndAddImmediateWriteOneRegister : Obligations.LoadsAndAddImmediateWriteOneRegister := fun s _ _ _ =>
  ⟨⟨_, rfl, s.setV_advance_writesOneRegister _ _⟩,
    ⟨_, _, rfl, BitVec.toNat_add _ _, s.setV_advance_writesOneRegister _ _⟩,
    ⟨_, rfl, s.setV_advance_writesOneRegister _ _⟩⟩

/-- Settles O38: each of the three is a write of VX, by the bits of the or, the and, the exclusive or. -/
theorem logicalOperationsAreBitwise : Obligations.LogicalOperationsAreBitwise := fun s _ _ =>
  ⟨⟨_, _, rfl, s.setV_advance_writesOneRegister _ _, fun _ => BitVec.getLsbD_or⟩,
    ⟨_, _, rfl, s.setV_advance_writesOneRegister _ _, fun _ => BitVec.getLsbD_and⟩,
    ⟨_, _, rfl, s.setV_advance_writesOneRegister _ _, fun _ => BitVec.getLsbD_xor⟩⟩

/-! ### The flags as numbers -/

theorem carryFlag_toNat (a b : Byte) : (carryFlag a b).toNat = if a.toNat + b.toNat > 255 then 1 else 0 :=
  apply_ite BitVec.toNat ..

theorem greaterFlag_toNat (a b : Byte) : (greaterFlag a b).toNat = if a.toNat ≤ b.toNat then 0 else 1 :=
  apply_ite BitVec.toNat ..

theorem lowBitFlag_toNat (a : Byte) : (lowBitFlag a).toNat = a.toNat % 2 := by
  rw [lowBitFlag, BitVec.toNat_and]
  exact Nat.and_one_is_mod _

theorem highBitFlag_toNat (a : Byte) : (highBitFlag a).toNat = a.toNat / 128 := by
  rw [highBitFlag, BitVec.toNat_ushiftRight, Nat.shiftRight_eq_div_pow]

/-! ### The results as numbers -/

theorem sub_toNat (a b : Byte) : (a - b).toNat = (a.toNat + 256 - b.toNat) % 256 := by
  have := b.isLt
  rw [BitVec.toNat_sub]
  omega

theorem ushiftRight_one_toNat (a : Byte) : (a >>> 1).toNat = a.toNat / 2 := by
  rw [BitVec.toNat_ushiftRight, Nat.shiftRight_eq_div_pow, Nat.pow_one]

theorem shiftLeft_one_toNat (a : Byte) : (a <<< 1).toNat = 2 * a.toNat % 256 := by
  rw [BitVec.toNat_shiftLeft, Nat.shiftLeft_eq, Nat.pow_one, Nat.mul_comm]

/-! ### The flag, then the result -/

/-- What the flag-then-result form leaves alone, whatever the flag and the result (R142, R13). -/
theorem State.flagThenResult_advance_rest (s : State) (f : Byte) (x : Reg) (g : State → Byte) :
    (∀ r, r ≠ x → r ≠ vF → (s.flagThenResult f x g).advance.getV r = s.getV r) ∧
      (s.flagThenResult f x g).advance.pc = s.pc + 2 ∧
      UnchangedExcept [.v, .pc] s (s.flagThenResult f x g).advance :=
  ⟨fun _ hx hF => by simp [hx, hF], rfl, (KeepsFrame.refl s).flagThenResult.advance.frame⟩

/-- The columns of the table of R142, for an instruction whose flag is `flag` and whose result is `result` as numbers:
an operand that is F is read back as the flag. -/
theorem exec_writesFlagThenResult {i : Instr} {s : State} {x y : Reg} {f : Byte} (g : Byte → Byte → Byte)
    {flag result : Nat → Nat → Nat}
    (h : exec i s = .next (s.flagThenResult f x fun t => g (t.getV x) (t.getV y)).advance)
    (hflag : f.toNat = flag (s.getV x).toNat (s.getV y).toNat)
    (hresult : ∀ a b, (g a b).toNat = result a.toNat b.toNat) :
    ∃ t, exec i s = .next t ∧ WritesFlagThenResult s t x y flag result := by
  refine ⟨_, h, fun hx hy => ?neither, fun hx hy => ?first, fun hx hy => ?second, fun hx hy => ?both,
    s.flagThenResult_advance_rest _ _ _⟩
  case neither => simp [hx, hy, Ne.symm hx, hresult, hflag]
  case first => simp [hx, hy, hresult, hflag]
  case second => simp [hx, hy, Ne.symm hx, hresult, hflag]
  case both => simp [hx, hy, hresult, hflag]

/-- Settles O39: the carry as a number, and the sum of bytes. -/
theorem addWritesCarryThenSum : Obligations.AddWritesCarryThenSum := fun _ _ _ =>
  exec_writesFlagThenResult (· + ·) rfl (carryFlag_toNat _ _) BitVec.toNat_add

/-- Settles O40: the flag as a number, and the difference of bytes. -/
theorem subWritesFlagThenDifference : Obligations.SubWritesFlagThenDifference := fun _ _ _ =>
  exec_writesFlagThenResult (· - ·) rfl (greaterFlag_toNat _ _) sub_toNat

/-- Settles O41: the flag of 8XY5 (C3), and the difference of bytes the other way round. -/
theorem subnWritesFlagThenReverseDifference : Obligations.SubnWritesFlagThenReverseDifference := fun _ _ _ =>
  exec_writesFlagThenResult (fun a b => b - a) rfl (greaterFlag_toNat _ _) fun a b => sub_toNat b a

/-! ### The shifts -/

/-- The effect of a shift, which reads no register but VX: where X is F, it is the flag that is shifted (R142). -/
theorem exec_shift {op : Reg → Instr} {s : State} {x : Reg} {f : Byte} (g : Byte → Byte)
    {flag shifted flagShifted : Nat}
    (h : ∀ z, exec (op z) s = .next (s.flagThenResult f x fun t => g (t.getV x)).advance)
    (y : Reg) (hflag : f.toNat = flag) (hshifted : (g (s.getV x)).toNat = shifted)
    (hflagShifted : (g f).toNat = flagShifted) :
    ∃ t, exec (op y) s = .next t ∧ (∀ z, exec (op z) s = .next t) ∧
      (t.getV vF).toNat = (if x = vF then flagShifted else flag) ∧ (x ≠ vF → (t.getV x).toNat = shifted) ∧
      (∀ r, r ≠ x → r ≠ vF → t.getV r = s.getV r) ∧ t.pc = s.pc + 2 ∧ UnchangedExcept [.v, .pc] s t := by
  refine ⟨_, h y, h, ?vF, fun hx => ?vX, s.flagThenResult_advance_rest _ _ _⟩
  case vX => simp [hx, hshifted]
  case vF =>
    by_cases hx : x = vF
    · simp [hx, hflagShifted]
    · simp [hx, Ne.symm hx, hflag]

/-- Settles O42: both are shifts; a flag of 0 or 1 shifts right to 0 and left to its double. -/
theorem shiftsWriteTheBitThenTheShift : Obligations.ShiftsWriteTheBitThenTheShift := by
  intro s x y
  refine ⟨exec_shift (op := .shr x) (· >>> 1) (fun _ => rfl) y (lowBitFlag_toNat _) (ushiftRight_one_toNat _) ?right,
    exec_shift (op := .shl x) (· <<< 1) (fun _ => rfl) y (highBitFlag_toNat _) (shiftLeft_one_toNat _) ?left⟩
  case right =>
    rw [ushiftRight_one_toNat, lowBitFlag_toNat]
    omega
  case left =>
    have := (s.getV x).isLt
    rw [shiftLeft_one_toNat, highBitFlag_toNat]
    omega

end Sys2Proof.Machine
end

section
/-! SUPPORT. The index register and memory instructions (42_index_memory.md): those that write I, the stores FX33 and
FX55, which differ in the bytes they store, and the load FX65. -/

namespace Sys2Proof.Machine

/-! ### The index register -/

@[simp] theorem zextByte_toNat (b : Byte) : (zextByte b).toNat = b.toNat :=
  BitVec.toNat_setWidth_of_le (by decide)

/-- Five times a byte is at most 1275, so the 16-bit product is the natural one (42_index_memory.md R152). -/
theorem zextByte_mul_five_toNat (b : Byte) : (zextByte b * 5).toNat = 5 * b.toNat := by
  have hb := b.isLt
  rw [BitVec.toNat_mul, zextByte_toNat, Nat.mul_comm]
  exact Nat.mod_eq_of_lt (show 5 * b.toNat < 65536 by omega)

theorem indexFlag_toNat (i : Word) : (indexFlag i).toNat = if i.toNat > 0xFFF then 1 else 0 :=
  apply_ite BitVec.toNat ..

/-- Settles O43: by the frame of a write of I, since neither value wraps. -/
theorem loadIndexSetsI : Obligations.LoadIndexSetsI := fun s x nnn =>
  ⟨⟨_, rfl, zextImm_toNat nnn, rfl, (KeepsFrame.refl s).setI.advance.frame⟩,
    ⟨_, rfl, zextByte_mul_five_toNat (s.getV x), rfl, (KeepsFrame.refl s).setI.advance.frame⟩⟩

/-- Settles O44: VX is read before VF is written, and the flag is that of the new I. -/
theorem addIndexWritesIThenFlag : Obligations.AddIndexWritesIThenFlag := by
  intro s x
  refine ⟨_, rfl, ?index, ?flag, fun r hr => ?others, rfl, (KeepsFrame.refl s).setI.setV.advance.frame⟩
  case index => exact (BitVec.toNat_add ..).trans (by rw [zextByte_toNat])
  case flag =>
    rw [State.advance_getV, State.getV_setV, if_pos rfl]
    exact indexFlag_toNat _
  case others => exact (State.advance_getV _ r).trans (State.getV_setV_of_ne hr)

/-! ### The stores -/

/-- The two outcomes of an instruction that stores the bytes `bs` at I, I + 1, ..., I + `last`: with the whole range
legal every byte of it is written and no other, and otherwise its lowest address above 0xFFF is the fault
(42_index_memory.md R153, R154, R156, 60_exceptions.md R211, R213). -/
theorem exec_store {i : Instr} {s : State} {bs : List Byte} {last : Nat}
    (h : exec i s =
      .next (s.attempt (Memory.memWrites (s.dataAddress 0) bs s.mem) fun m => (s.setMem m).advance))
    (hlen : bs.length = last + 1) :
    (s.i.toNat + last ≤ 0xFFF →
      ∃ t, exec i s = .next t ∧ (∀ k b, bs[k]? = some b → t.mem.read (s.dataAddress k) = b) ∧
        (∀ a, a < s.dataAddress 0 ∨ s.dataAddress last < a → t.mem.read a = s.mem.read a) ∧
        t.pc = s.pc + 2 ∧ UnchangedExcept [.mem, .pc] s t) ∧
    (s.i.toNat + last > 0xFFF →
      ∃ t, exec i s = .next t ∧ RaisesOnly s t (.memOutOfRange (max s.i.toNat 0x1000))) := by
  rw [attempt_memWrites s bs (List.ne_nil_of_length_eq_add_one hlen), hlen] at h
  refine ⟨fun hfit => ?fits, fun hpast => ?faults⟩
  case fits =>
    rw [if_pos (by omega)] at h
    refine ⟨_, h, fun k b hb => ?stored, fun a ha => ?other, rfl,
      ((KeepsFrame.refl s).setMem (Memory.writeAll_font ..)).advance.frame⟩
    case stored =>
      rw [State.advance_mem, State.setMem_mem, Memory.read_writeAll, State.dataAddress,
        if_pos (Nat.le_add_right ..), Nat.add_sub_cancel_left, hb, Option.getD_some]
    case other =>
      rw [State.advance_mem, State.setMem_mem, Memory.read_writeAll]
      split
      · rw [State.dataAddress, State.dataAddress] at ha
        rw [List.getElem?_eq_none (by omega), Option.getD_none]
      · rfl
  case faults =>
    rw [if_neg (by omega)] at h
    exact ⟨_, h, s.raise_raisesOnly _⟩

/-- Settles O45: the store of the three digits. -/
theorem bcdStoresThreeDigits : Obligations.BcdStoresThreeDigits := by
  intro s x
  refine (exec_store (i := .ldBVx x) (bs := bcdDigits (s.getV x)) rfl rfl).imp_left fun hstore hfit => ?_
  obtain ⟨t, ht, hbytes, hrest⟩ := hstore hfit
  refine ⟨t, ht, ?hundreds, ?tens, ?units, hrest⟩
  case hundreds => rw [hbytes 0 _ rfl, BitVec.toNat_udiv]; rfl
  case tens => rw [hbytes 1 _ rfl, BitVec.toNat_umod, BitVec.toNat_udiv]; rfl
  case units => rw [hbytes 2 _ rfl, BitVec.toNat_umod]; rfl

/-- Settles O46: the store of V0..VX. -/
theorem storeRegistersWritesTheRange : Obligations.StoreRegistersWritesTheRange := by
  intro s x
  refine (exec_store (i := .ldMemVx x) rfl (s.getVs_length _)).imp_left fun hstore hfit => ?_
  obtain ⟨t, ht, hbytes, hrest⟩ := hstore hfit
  refine ⟨t, ht, fun r hr => hbytes _ _ ?_, hrest⟩
  rw [s.getVs_getElem? _ _ (Nat.lt_succ_of_le hr), BitVec.ofNat_toNat, BitVec.setWidth_eq]

/-! ### The load -/

/-- FX65 loads V0..VX from the bytes at I, or raises the fault of its range (42_index_memory.md R155). -/
theorem exec_ldVxMem (x : Reg) (s : State) :
    exec (.ldVxMem x) s =
      .next (if s.i.toNat + x.toNat ≤ 0xFFF
        then (State.setVs 0 ((List.range (x.toNat + 1)).map fun k => s.mem.read (s.dataAddress k)) s).advance
        else s.raise (.memOutOfRange (max s.i.toNat 0x1000))) := by
  refine congrArg _ ((attempt_memReads s (x.toNat + 1) _).trans (if_congr ?_ rfl rfl))
  omega

/-- Settles O47: the load with the whole range legal, and the fault. -/
theorem loadRegistersReadsTheRange : Obligations.LoadRegistersReadsTheRange := by
  intro s x
  refine ⟨fun hfit => ?fits, fun hpast => ?faults⟩
  case fits =>
    have hx := x.isLt
    have h := exec_ldVxMem x s
    rw [if_pos hfit] at h
    refine ⟨_, h, fun r hr => ?loaded, fun r hr => exec_ldVxMem_getV h hr, ?pc,
      (KeepsFrame.refl s).setVs.advance.frame⟩
    case loaded =>
      rw [State.advance_getV, State.setVs_getV _ _ _ (by simp; omega), if_pos (Nat.zero_le _)]
      simp [Nat.lt_succ_of_le hr]
    case pc => rw [State.advance_pc, State.setVs_pc]
  case faults =>
    rw [exec_ldVxMem, if_neg (by omega)]
    exact ⟨_, rfl, s.raise_raisesOnly _⟩

end Sys2Proof.Machine
end

section
/-! SUPPORT. The framebuffer (43_graphics.md): what 00E0 and DXYN do to it pixel by pixel, the byte-level form of a
sprite row, and the host's view of the pixels and of the dirty flag. A framebuffer and its pixels determine each other
(10_state.md R29), so what is known of every pixel is known of every byte. -/

namespace Sys2Proof.Machine

/-! ### Bytes and pixels -/

/-- Bit `k` of byte `j` is the pixel in row `j / 8` whose column the byte and the bit give (10_state.md R29). -/
theorem getLsbD_eq_pixel (fb : Framebuffer) {j k : Nat} (hj : j < 256) (hk : k < 8) :
    fb[j].getLsbD k = pixel fb (j % 8 * 8 + (7 - k)) (j / 8) := by
  rw [pixel, show (j % 8 * 8 + (7 - k)) / 8 + j / 8 * 8 = j by omega, framebuffer_getD fb hj,
    show 7 - (j % 8 * 8 + (7 - k)) % 8 = k by omega]

/-- A framebuffer is determined by its pixels on the screen. -/
theorem framebuffer_ext {fb fb' : Framebuffer} (h : ∀ x y, x < 64 → y < 32 → pixel fb x y = pixel fb' x y) :
    fb = fb' := by
  refine Vector.ext fun j hj => BitVec.eq_of_getLsbD_eq fun k hk => ?_
  rw [getLsbD_eq_pixel fb hj hk, getLsbD_eq_pixel fb' hj hk, h _ _ (by omega) (by omega)]

/-! ### 00E0 -/

theorem pixel_blank {x y : Nat} (hx : x < 64) (hy : y < 32) : pixel (Vector.replicate 256 0) x y = false := by
  rw [pixel, framebuffer_getD _ (by omega), Vector.getElem_replicate]
  exact BitVec.getLsbD_zero

/-- Settles O49: the blank screen byte by byte and pixel by pixel. -/
theorem clearBlanksTheScreen : Obligations.ClearBlanksTheScreen := fun s =>
  ⟨_, rfl, fun j => Vector.getElem_replicate j.isLt, fun _ _ => pixel_blank, rfl, rfl,
    (KeepsFrame.refl s).setScreen.advance.frame⟩

/-! ### One row of a sprite -/

/-- The bits of a sprite row over the byte that holds column x0 (43_graphics.md R172). -/
theorem rowBit_first_byte (b : Byte) (x0 : Nat) {k : Nat} (hk : k < 8) :
    rowBit b x0 (x0 / 8 * 8 + (7 - k)) = (b >>> (x0 % 8)).getLsbD k := by
  rw [BitVec.getLsbD_ushiftRight, rowBit]
  by_cases h : x0 % 8 + k < 8
  · rw [show 7 - (x0 / 8 * 8 + (7 - k) - x0) = x0 % 8 + k by omega]
    simp only [decide_eq_true (show x0 ≤ x0 / 8 * 8 + (7 - k) by omega),
      decide_eq_true (show x0 / 8 * 8 + (7 - k) < x0 + 8 by omega), Bool.true_and]
  · rw [decide_eq_false (show ¬ x0 ≤ x0 / 8 * 8 + (7 - k) by omega), BitVec.getLsbD_of_ge b (x0 % 8 + k) (by omega)]
    rfl

/-- The bits of a sprite row over the byte after it: none where x0 is a multiple of 8, and then the shift by 8 leaves
none (R172). -/
theorem rowBit_next_byte (b : Byte) (x0 : Nat) {k : Nat} (hk : k < 8) :
    rowBit b x0 ((x0 / 8 + 1) * 8 + (7 - k)) = (b <<< (8 - x0 % 8)).getLsbD k := by
  rw [BitVec.getLsbD_shiftLeft, rowBit, decide_eq_true (show x0 ≤ (x0 / 8 + 1) * 8 + (7 - k) by omega),
    decide_eq_true hk]
  by_cases h : k < 8 - x0 % 8
  · rw [decide_eq_true h, decide_eq_false (show ¬ (x0 / 8 + 1) * 8 + (7 - k) < x0 + 8 by omega)]
    rfl
  · rw [decide_eq_false h, decide_eq_true (show (x0 / 8 + 1) * 8 + (7 - k) < x0 + 8 by omega),
      show 7 - ((x0 / 8 + 1) * 8 + (7 - k) - x0) = k - (8 - x0 % 8) by omega]
    rfl

/-- A sprite row meets no byte but these two (R172). -/
theorem rowBit_other_byte (b : Byte) {x0 q k : Nat} (hk : k < 8) (h : q ≠ x0 / 8) (h' : q ≠ x0 / 8 + 1) :
    rowBit b x0 (q * 8 + (7 - k)) = false := by
  have hoff : ¬ (x0 ≤ q * 8 + (7 - k) ∧ q * 8 + (7 - k) < x0 + 8) := by omega
  rw [rowBit, ← Bool.decide_and, decide_eq_false hoff, Bool.false_and]

/-- Bit `k` of byte `j` after one sprite row. -/
theorem getLsbD_drawRow (b : Byte) (x0 : Nat) {yy j k : Nat} (p : Blit) (hy : yy < 32) (hj : j < 256) (hk : k < 8) :
    (drawRow b x0 yy p).1[j].getLsbD k =
      (p.1[j].getLsbD k ^^ (decide (yy = j / 8) && rowBit b x0 (j % 8 * 8 + (7 - k)))) := by
  rw [getLsbD_eq_pixel _ hj hk, getLsbD_eq_pixel _ hj hk, pixel_drawRow b x0 p hy (by omega) (by omega)]

/-- Settles O51: bit by bit, for the byte of column x0, the byte after it, and the bytes the row does not meet. -/
theorem drawRowEqualsTheByteLevelForm : Obligations.DrawRowEqualsTheByteLevelForm := by
  intro b x0 yy p hx hy j
  refine BitVec.eq_of_getLsbD_eq fun k hk => (getLsbD_drawRow b x0 p hy j.isLt hk).trans ?_
  split_ifs with hfirst hnext
  · rw [decide_eq_true (show yy = j.val / 8 by omega), show j.val % 8 = x0 / 8 by omega, rowBit_first_byte b x0 hk,
      Bool.true_and, BitVec.getLsbD_xor]
    rfl
  · obtain ⟨-, hlast, hbyte⟩ := hnext
    rw [decide_eq_true (show yy = j.val / 8 by omega), show j.val % 8 = x0 / 8 + 1 by omega,
      rowBit_next_byte b x0 hk, Bool.true_and, BitVec.getLsbD_xor]
    rfl
  · -- The byte is in another row, or is none of the row's two, or is the next one where x0 is a multiple of 8.
    suffices h : (decide (yy = j.val / 8) && rowBit b x0 (j.val % 8 * 8 + (7 - k))) = false by
      rw [h, Bool.xor_false]; rfl
    by_cases hrow : yy = j.val / 8
    · rw [decide_eq_true hrow, Bool.true_and]
      by_cases hq : j.val % 8 = x0 / 8 + 1
      · rw [hq, rowBit_next_byte b x0 hk, show x0 % 8 = 0 by omega]
        simp
      · exact rowBit_other_byte b hk (by omega) hq
    · rw [decide_eq_false hrow, Bool.false_and]

/-! ### DXYN -/

/-- The `n` sprite bytes at I (R171). -/
def State.spriteBytes (s : State) (n : Nat) : List Byte := (List.range n).map fun r => s.mem.read (s.i.toNat + r)

theorem State.spriteBytes_length (s : State) (n : Nat) : (s.spriteBytes n).length = n := by
  simp [State.spriteBytes]

theorem State.spriteBytes_getElem?_eq_some {s : State} {n r : Nat} {b : Byte} :
    (s.spriteBytes n)[r]? = some b ↔ r < n ∧ s.mem.read (s.i.toNat + r) = b := by
  simp [State.spriteBytes, List.getElem?_eq_some_iff]

/-- A row has a set pixel at a column exactly when one of its eight bits is set and stands there (R172). -/
theorem rowBit_eq_true {b : Byte} {x0 x : Nat} :
    rowBit b x0 x = true ↔ ∃ c, c < 8 ∧ x0 + c = x ∧ b.getLsbD (7 - c) = true := by
  simp only [rowBit, Bool.and_eq_true, decide_eq_true_eq]
  constructor
  · rintro ⟨⟨hle, hlt⟩, hb⟩
    exact ⟨x - x0, by omega, by omega, hb⟩
  · rintro ⟨c, hc, rfl, hb⟩
    exact ⟨⟨by omega, by omega⟩, by rwa [Nat.add_sub_cancel_left]⟩

/-- The rows read from memory cover the pixels that the sprite at I covers (R171, R172, R174). -/
theorem rowsCover_spriteBytes {s : State} {x0 y0 n x y : Nat} :
    rowsCover x0 y0 0 (s.spriteBytes n) x y ↔ s.spriteCovers x0 y0 n x y := by
  simp only [rowsCover, State.spriteBytes_getElem?_eq_some, rowBit_eq_true, Nat.zero_add]
  constructor
  · rintro ⟨r, b, ⟨hr, rfl⟩, hy, c, hc, hx, hb⟩
    exact ⟨r, c, hr, hc, hy, hx, hb⟩
  · rintro ⟨r, c, hr, hc, hy, hx, hb⟩
    exact ⟨r, _, ⟨hr, rfl⟩, hy, c, hc, hx, hb⟩

/-- The blit of an execution of DXYN, from the framebuffer before it (R171). -/
def State.blit (s : State) (x y : Reg) (n : BitVec 4) : Blit :=
  drawRows (s.getV x).toNat (s.getV y).toNat 0 (s.spriteBytes n.toNat) (s.fb, false)

/-- DXYN writes the blit and its flag, or raises the fault of its range (R171, 60_exceptions.md R211). -/
theorem exec_drw (x y : Reg) (n : BitVec 4) (s : State) :
    exec (.drw x y n) s =
      .next (if n.toNat = 0 ∨ s.i.toNat + n.toNat ≤ 0x1000
        then ((s.setScreen (s.blit x y n).1).setV vF (collisionFlag (s.blit x y n).2)).advance
        else s.raise (.memOutOfRange (max s.i.toNat 0x1000))) :=
  congrArg _ (attempt_memReads s n.toNat _)

/-- The blit toggles the pixels the sprite covers and no others (R171 to R174). -/
theorem State.pixel_blit {s : State} {x y : Reg} {n : BitVec 4} {px py : Nat} (hx : px < 64) (hy : py < 32) :
    pixel (s.blit x y n).1 px py ≠ pixel s.fb px py ↔
      s.spriteCovers (s.getV x).toNat (s.getV y).toNat n.toNat px py :=
  have hn := n.isLt
  (pixel_drawRows _ _ hx hy 0 _ (s.fb, false) (by rw [s.spriteBytes_length]; omega)).trans rowsCover_spriteBytes

/-- The blit collides exactly when one of those pixels was set (R173). -/
theorem State.blit_collision {s : State} {x y : Reg} {n : BitVec 4} :
    (s.blit x y n).2 = true ↔ ∃ px py, px < 64 ∧ py < 32 ∧
      s.spriteCovers (s.getV x).toNat (s.getV y).toNat n.toNat px py ∧ pixel s.fb px py = true := by
  have hn := n.isLt
  have h := drawRows_collision (s.getV x).toNat (s.getV y).toNat 0 (s.spriteBytes n.toNat) (s.fb, false)
    (by rw [s.spriteBytes_length]; omega)
  simpa only [State.blit, Bool.false_eq_true, false_or, rowsCover_spriteBytes] using h

theorem collisionFlag_eq_one {c : Bool} : collisionFlag c = 1 ↔ c = true := by
  cases c <;> decide

theorem collisionFlag_zero_or_one (c : Bool) : collisionFlag c = 0 ∨ collisionFlag c = 1 := by
  cases c <;> decide

/-- Settles O50: DXYN with its sprite in memory by the pixels and the collision of its blit, and the fault. -/
theorem drawTogglesTheCoveredPixels : Obligations.DrawTogglesTheCoveredPixels := by
  intro s x y n
  refine ⟨fun hfit => ?drawn, fun hpos hpast => ?faults⟩
  case drawn =>
    have h := exec_drw x y n s
    rw [if_pos (by omega)] at h
    have hflag : ((s.setScreen (s.blit x y n).1).setV vF (collisionFlag (s.blit x y n).2)).advance.getV vF =
        collisionFlag (s.blit x y n).2 := by
      rw [State.advance_getV, State.getV_setV, if_pos rfl]
    refine ⟨_, h, fun _ _ => State.pixel_blit, ?collision, ?bit, fun r hr => ?others, rfl, rfl,
      (KeepsFrame.refl s).setScreen.setV.advance.frame⟩
    case collision => rw [hflag, collisionFlag_eq_one, State.blit_collision]
    case bit => exact hflag.symm ▸ collisionFlag_zero_or_one (s.blit x y n).2
    case others => rw [State.advance_getV, State.getV_setV_of_ne hr, State.setScreen_getV]
  case faults =>
    rw [exec_drw, if_neg (by omega)]
    exact ⟨_, rfl, s.raise_raisesOnly _⟩

/-- A sprite at column 64 or beyond covers no pixel of the screen (R174, D14). -/
theorem State.not_spriteCovers_of_right {s : State} {x0 y0 n x y : Nat} (h : 64 ≤ x0) (hx : x < 64) :
    ¬ s.spriteCovers x0 y0 n x y := by
  rintro ⟨r, c, -, -, -, hc, -⟩
  omega

/-- Settles O52: a sprite that covers no pixel toggles none and collides with none. -/
theorem spriteRightOfTheScreenVanishes : Obligations.SpriteRightOfTheScreenVanishes := by
  intro s x y n hright
  refine (drawTogglesTheCoveredPixels s x y n).imp_left fun hdraw hfit => ?_
  obtain ⟨t, ht, hpixels, hone, hflag, -, hdirty, hpc, -⟩ := hdraw hfit
  refine ⟨t, ht, framebuffer_ext fun px py hx hy => ?pixels, hflag.resolve_right fun h => ?flag, hdirty, hpc⟩
  case pixels => exact not_not.1 (mt (hpixels px py hx hy).1 (State.not_spriteCovers_of_right hright hx))
  case flag =>
    obtain ⟨px, py, hx, -, hcover, -⟩ := hone.1 h
    exact State.not_spriteCovers_of_right hright hx hcover

/-- What a sprite covers depends on I and on the bytes of memory alone (R171). -/
theorem State.spriteCovers_congr {s t : State} (hi : t.i = s.i) (hm : ∀ a, t.mem.read a = s.mem.read a)
    (x0 y0 n x y : Nat) : t.spriteCovers x0 y0 n x y ↔ s.spriteCovers x0 y0 n x y := by
  simp only [State.spriteCovers, hi, hm]

/-- A pixel that the second drawing toggles exactly when the first did is as it was. -/
theorem eq_of_toggled_alike {before between after : Bool} (h : after ≠ between ↔ between ≠ before) :
    after = before := by
  revert before between after
  decide

/-- Settles O53: the first DXYN leaves I, memory, VX and VY, so the second covers and toggles the same pixels. -/
theorem drawingTwiceRestoresTheScreen : Obligations.DrawingTwiceRestoresTheScreen := by
  intro s x y n hxF hyF hfit
  obtain ⟨t, ht, hpixels, -, -, hregs, -, -, hframe⟩ := (drawTogglesTheCoveredPixels s x y n).1 hfit
  have hi : t.i = s.i := hframe .i (by simp)
  have hm : ∀ a, t.mem.read a = s.mem.read a := hframe .mem (by simp)
  obtain ⟨u, hu, hagain, -⟩ := (drawTogglesTheCoveredPixels t x y n).1 (hi ▸ hfit)
  refine ⟨t, u, ht, hu, framebuffer_ext fun px py hx hy => ?_⟩
  have htoggle := hagain px py hx hy
  rw [hregs x hxF, hregs y hyF, State.spriteCovers_congr hi hm, ← hpixels px py hx hy] at htoggle
  exact eq_of_toggled_alike htoggle

/-! ### The host's view -/

/-- Settles O25: the queries answer whether or not the core is halted, and a running core takes SETDIRTY. -/
theorem hostReadsPixelsAndTheDirtyFlag : Obligations.HostReadsPixelsAndTheDirtyFlag := by
  refine fun s es => ⟨fun x y hs => step_of_event hs, fun hs => step_of_event hs, fun b hf hs => ?_⟩
  rw [step_of_event hs, handle, State.unlessHalted, State.setSchedule_halted, State.halted_eq_false.2 hf]
  rfl

end Sys2Proof.Machine
end

section
/-! SUPPORT. The random, keypad and timer instructions (44_keypad_timers_random.md): CXNN, the skips on a key, the
timers, and FX0A, at which a core waits until the STEP after a KEYDOWN (R194, 70_reset_and_hazards.md R252). -/

namespace Sys2Proof.Machine

/-! ### The random byte -/

/-- The payload of the STEP in progress is the random byte (44_keypad_timers_random.md R190, log 2). -/
theorem State.rndByte_of_payload {s : State} {b : Byte} (h : s.env.rnd = some b) : s.rndByte = b := by
  rw [State.rndByte, h]

/-- Settles O54: the byte that is drawn, masked, is what VX reads as. -/
theorem randomIsMaskedByTheImmediate : Obligations.RandomIsMaskedByTheImmediate := by
  intro s x nn
  refine ⟨_, s.rndByte, rfl, fun _ => State.rndByte_of_payload, ?destination, fun r hr => ?others, rfl, rfl,
    (KeepsFrame.refl s).drawn.setV.advance.frame⟩
  case destination => rw [State.advance_getV, State.getV_setV, if_pos rfl]
  case others => rw [State.advance_getV, State.getV_setV_of_ne hr, State.drawn_getV]

/-! ### The timers -/

/-- Settles O58: FX07 is a write of VX, the other two are writes of their timer. -/
theorem timerInstructionsMoveOneByte : Obligations.TimerInstructionsMoveOneByte := fun s _ =>
  ⟨⟨_, rfl, s.setV_advance_writesOneRegister _ _⟩,
    ⟨_, rfl, rfl, rfl, (KeepsFrame.refl s).setDt.advance.frame⟩,
    ⟨_, rfl, rfl, rfl, (KeepsFrame.refl s).setSt.advance.frame⟩⟩

/-! ### The skips on a key -/

/-- A register that holds the number of a key names that key (R191). -/
theorem State.keyOperand_eq_ok {s : State} {x : Reg} {k : Fin 16} (h : (s.getV x).toNat = k.val) :
    s.keyOperand x = .ok k := by
  rw [s.keyOperand_ok x (by omega)]
  exact congrArg _ (Fin.ext h)

/-- EX9E skips if the key is down, or raises the fault of its operand (R191). -/
theorem exec_skp (x : Reg) (s : State) :
    exec (.skp x) s = .next (s.attempt (s.keyOperand x) fun k => s.skipIf (s.keyAt k)) := rfl

/-- EXA1 skips if the key is up, or raises the fault of its operand (R192). -/
theorem exec_sknp (x : Reg) (s : State) :
    exec (.sknp x) s = .next (s.attempt (s.keyOperand x) fun k => s.skipIf (!s.keyAt k)) := rfl

/-- Settles O55: with an operand that names a key both are skips on its level; otherwise both raise its fault. -/
theorem keySkipsTestTheKeyLevel : Obligations.KeySkipsTestTheKeyLevel := by
  intro s x
  refine ⟨fun k hk => ?key, fun h => ?noKey⟩
  case key =>
    have hop := State.keyOperand_eq_ok hk
    exact ⟨exec_skip (by rw [exec_skp, hop, State.attempt_ok]) Iff.rfl,
      exec_skip (by rw [exec_sknp, hop, State.attempt_ok]) (iff_of_eq (Bool.not_eq_true' _))⟩
  case noKey =>
    have hop := s.keyOperand_fault x h
    rw [exec_skp, exec_sknp, hop]
    exact ⟨⟨_, rfl, s.raise_raisesOnly _⟩, ⟨_, rfl, s.raise_raisesOnly _⟩⟩

/-! ### FX0A -/

/-- With no key down FX0A does nothing (R194). -/
theorem exec_ldVxK_of_up {s : State} (h : ∀ j, s.keyAt j = false) (x : Reg) : exec (.ldVxK x) s = .next s := by
  rw [exec, execLdVxK, State.lowestKey_eq_none.2 h]

/-- With a key down FX0A puts the lowest down key in VX (R194). -/
theorem exec_ldVxK_of_lowest {s : State} {k : Fin 16} (hk : s.keyAt k = true) (h : ∀ j, j < k → s.keyAt j = false)
    (x : Reg) : exec (.ldVxK x) s = .next (s.setV x (BitVec.ofNat 8 k.val)).advance := by
  rw [exec, execLdVxK, State.lowestKey_eq_some.2 ⟨hk, h⟩]

/-- The number of a key fits a byte. -/
theorem ofNat_key_toNat (k : Fin 16) : (BitVec.ofNat 8 k.val).toNat = k.val := by
  rw [BitVec.toNat_ofNat, Nat.mod_eq_of_lt (by omega)]

/-- Settles O56: with no key down nothing is done, otherwise the lowest down key is written to VX. -/
theorem keyAwaitTakesTheLowestKeyOrWaits : Obligations.KeyAwaitTakesTheLowestKeyOrWaits := fun s x =>
  ⟨fun h => exec_ldVxK_of_up h x, fun k hk hlow =>
    ⟨_, _, exec_ldVxK_of_lowest hk hlow x, ofNat_key_toNat k, s.setV_advance_writesOneRegister _ _⟩⟩

/-! ### Steps that end without a fault -/

theorem StepsTo.trans {m n : Nat} {s t u : State} (h : StepsTo m s t) (h' : StepsTo n t u) : StepsTo (m + n) s u := by
  induction m generalizing s with
  | zero =>
    obtain rfl : s = t := h
    rwa [Nat.zero_add]
  | succ m ih =>
    obtain ⟨v, hv, hrest⟩ := h
    rw [Nat.succ_add]
    exact ⟨v, hv, ih hrest⟩

/-- A STEP event of a running core whose instruction raises no fault: its payload is gone and it is counted
(30_encoding.md R88, 10_state.md R32). -/
theorem step_of_exec {s u : State} {w : Word} {i : Instr} {b : Byte} {es : List Event} (hf : s.fault = none)
    (hw : s.mem.fetch16 s.pc = .ok w) (hd : decodeWord w = .ok i) (hs : s.env.schedule = .step b :: es)
    (hu : exec i ((s.setSchedule es).setRnd (some b)) = .next u) (huf : u.fault = none) :
    step s = .next (u.setRnd none).countCycle := by
  rw [(stepRunsTheDecodedInstruction.1 s w i hf hw hd).2 b es hs, hu]
  exact congrArg _ (State.retire_running huf)

/-- KEYDOWN on a running core (60_exceptions.md R228). -/
theorem step_keyDown {s : State} {k : Fin 16} {es : List Event} (hf : s.fault = none)
    (h : s.env.schedule = .keyDown k :: es) : step s = .next ((s.setSchedule es).setKey k true) := by
  rw [step_of_event h, handle, State.unlessHalted, State.setSchedule_halted, State.halted_eq_false.2 hf]
  rfl

/-! ### The wait -/

/-- A running core whose PC is at FX0A. -/
def State.atKeyAwait (s : State) (x : Reg) : Prop :=
  s.fault = none ∧ ∃ w, s.mem.fetch16 s.pc = .ok w ∧ decodeWord w = .ok (.ldVxK x)

/-- The state after `n` STEPs without effect: they are counted, the events `es` are left, and the payload of the last of
them, if there was one, is gone. -/
def State.waited (s : State) (n : Nat) (es : List Event) : State :=
  { s with
    cycles := s.cycles + n
    env := { s.env with schedule := es, rnd := if n = 0 then s.env.rnd else none } }

theorem State.waited_zero {s : State} {es : List Event} (h : s.env.schedule = es) : s.waited 0 es = s := by
  subst h
  rfl

theorem State.waited_one_waited (s : State) (n : Nat) (es fs : List Event) :
    (s.waited 1 fs).waited n es = s.waited (n + 1) es := by
  simp [State.waited, Nat.add_comm n 1, Nat.add_assoc]

/-- A STEP at FX0A with no key down is one without effect (R194). -/
theorem step_waits {s : State} {x : Reg} {b : Byte} {es : List Event} (h : s.atKeyAwait x)
    (hup : ∀ j, s.keyAt j = false) (hs : s.env.schedule = .step b :: es) : step s = .next (s.waited 1 es) := by
  obtain ⟨hf, w, hw, hd⟩ := h
  exact step_of_exec hf hw hd hs (exec_ldVxK_of_up (s := (s.setSchedule es).setRnd (some b)) hup x) hf

/-- The wait lasts as long as STEPs come: after each the core is at FX0A again with no key down. -/
theorem stepsTo_waited {s : State} {x : Reg} {bs : List Byte} {es : List Event} (h : s.atKeyAwait x)
    (hup : ∀ j, s.keyAt j = false) (hs : s.env.schedule = bs.map Event.step ++ es) :
    StepsTo bs.length s (s.waited bs.length es) := by
  induction bs generalizing s with
  | nil => exact (State.waited_zero hs).symm
  | cons b bs ih =>
    have hrest := ih (s := s.waited 1 (bs.map Event.step ++ es)) h hup rfl
    rw [State.waited_one_waited] at hrest
    exact ⟨_, step_waits h hup hs, hrest⟩

/-- The end of the wait: the KEYDOWN makes its key the only one that is down, so the STEP after it takes that key. -/
theorem stepsTo_of_keyDown {s : State} {x : Reg} {k : Fin 16} {b : Byte} {es : List Event} (h : s.atKeyAwait x)
    (hup : ∀ j, s.keyAt j = false) (hs : s.env.schedule = .keyDown k :: .step b :: es) :
    StepsTo 2 s
      ((((s.setKey k true).setV x (BitVec.ofNat 8 k.val)).advance.setSchedule es).setRnd none).countCycle := by
  obtain ⟨hf, w, hw, hd⟩ := h
  have hk : (s.setKey k true).keyAt k = true := by rw [State.keyAt_setKey, if_pos rfl]
  have hlow (j : Fin 16) (hj : j < k) : (s.setKey k true).keyAt j = false := by
    rw [State.keyAt_setKey, if_neg hj.ne, hup]
  have htake := exec_ldVxK_of_lowest (s := ((s.setKey k true).setSchedule es).setRnd (some b)) hk hlow x
  exact ⟨_, step_keyDown hf hs, _, step_of_exec hf hw hd rfl htake hf, rfl⟩

/-! ### Its frame -/

namespace KeepsFrame

variable {ps : List Piece} {s t : State}

theorem setKey (h : KeepsFrame ps s t) {k : Fin 16} {b : Bool} (hk : .key ∈ ps := by simp) :
    KeepsFrame ps s (t.setKey k b) :=
  h.trans ⟨fun q hq => by cases q <;> simp_all [Unchanged], rfl⟩

theorem countCycle (h : KeepsFrame ps s t) (hc : .cycles ∈ ps := by simp) : KeepsFrame ps s t.countCycle :=
  h.trans ⟨fun q hq => by cases q <;> simp_all [Unchanged], rfl⟩

theorem waited (h : KeepsFrame ps s t) {n : Nat} {es : List Event} (hc : .cycles ∈ ps := by simp)
    (he : .env ∈ ps := by simp) : KeepsFrame ps s (t.waited n es) := by
  refine h.trans ⟨fun q hq => ?_, rfl⟩
  cases q with
  | cycles => exact absurd hc hq
  | env => exact absurd he hq
  | v | mem => exact fun _ => rfl
  | _ => rfl

end KeepsFrame

/-- Settles O57: the state after the wait, and the state after the KEYDOWN and the STEP that end it. -/
theorem waitEndsAtTheNextKeyDown : Obligations.WaitEndsAtTheNextKeyDown := by
  rintro s w x k n bs b es hf hw hd hup rfl hs
  have h : s.atKeyAwait x := ⟨hf, w, hw, hd⟩
  have hwait := stepsTo_waited h hup hs
  refine ⟨⟨_, hwait, rfl, rfl, (KeepsFrame.refl s).waited.frame⟩,
    ⟨_, hwait.trans (stepsTo_of_keyDown h hup rfl), ?destination, fun r hr => ?registers, rfl, ?key,
      fun j hj => ?keys, rfl, rfl,
      (KeepsFrame.refl s).waited.setKey.setV.advance.setSchedule.setRnd.countCycle.frame⟩⟩
  case destination =>
    rw [State.countCycle_getV, State.setRnd_getV, State.setSchedule_getV, State.advance_getV, State.getV_setV,
      if_pos rfl, ofNat_key_toNat]
  case registers => exact State.getV_setV_of_ne hr
  case key => exact (State.keyAt_setKey ..).trans (if_pos rfl)
  case keys => exact (State.keyAt_setKey ..).trans (if_neg hj)

end Sys2Proof.Machine
end

section
/-! SUPPORT. The halted state and the end of a step (60_exceptions.md R212, R213): a halted core takes INIT and answers
the queries, every step answers a next state, and a STEP that raises a fault does nothing else. -/

namespace Sys2Proof.Machine

/-! ### The halted state -/

theorem State.unlessHalted_halted {s : State} {f : Fault} (h : s.fault = some f) (k : State → State) :
    s.unlessHalted k = s :=
  if_pos (by rw [State.halted, h, Option.isSome_some])

theorem State.unlessHalted_running {s : State} (h : s.fault = none) (k : State → State) : s.unlessHalted k = k s :=
  if_neg (by rw [State.halted_eq_false.2 h]; exact Bool.false_ne_true)

/-- An event that is neither INIT nor a query does nothing on a halted core (R212). -/
theorem handle_halted {e : Event} {s : State} {f : Fault} (hf : s.fault = some f) (hinit : e ≠ .init)
    (hpixel : ∀ x y, e ≠ .getPixel x y) (hdirty : e ≠ .isDirty) : handle e s = .next s := by
  cases e with
  | init => exact absurd rfl hinit
  | getPixel x y => exact absurd rfl (hpixel x y)
  | isDirty => exact absurd rfl hdirty
  | step b => exact cycle_halted hf _
  | load | tick | keyDown | keyUp | setDirty => exact congrArg _ (State.unlessHalted_halted hf _)

/-- A state that is safe for some number of steps is a running one. -/
theorem SafeFor.running {k : Nat} {s : State} (h : SafeFor k s) : s.fault = none := by
  cases k with
  | zero => exact h
  | succ k => exact h.1

/-- Settles O13: the STEP of an empty schedule, the ignored events, the two queries, INIT, and safety. -/
theorem haltedCoreIgnoresAllButInit : Obligations.HaltedCoreIgnoresAllButInit := by
  refine fun s f hf => ⟨fun hs => ?empty, fun e es hs hinit hpixel hdirty => ?ignored,
    fun x y es hs => (hostReadsPixelsAndTheDirtyFlag s es).1 x y hs,
    fun es hs => (hostReadsPixelsAndTheDirtyFlag s es).2.1 hs, fun es hs => step_init hs, fun k hk => ?safe⟩
  case empty => rw [step_of_empty hs, cycle_halted hf]
  case ignored => rw [step_of_event hs, handle_halted (s := s.setSchedule es) hf hinit hpixel hdirty]
  case safe => cases hf.symm.trans hk.running

/-! ### Every step answers a next state -/

theorem exists_executeWord_eq_next (w : Word) (s : State) : ∃ t, executeWord w s = .next t := by
  cases hd : decodeWord w with
  | ok i =>
    obtain ⟨t, ht, -⟩ := exec_faultsOrKeeps i s
    exact ⟨t, (executeWord_instr hd s).trans ht⟩
  | error e => exact ⟨_, executeWord_unrecognized hd s⟩

theorem exists_cycle_eq_next (r : Option Byte) (s : State) : ∃ t, cycle r s = .next t := by
  cases hf : s.fault with
  | some f => exact ⟨s, cycle_halted hf r⟩
  | none =>
    by_cases hp : 0xFFF ≤ s.pc.toNat
    · exact ⟨_, cycle_fetch_fault hf hp r⟩
    · obtain ⟨u, hu⟩ := exists_executeWord_eq_next _ (s.setRnd r)
      exact ⟨u.retire, (cycle_fetched hf (s.mem.fetch16_ok (by omega)) r).trans (congrArg retireOutcome hu)⟩

theorem exists_handle_eq_next (e : Event) (s : State) : ∃ t, handle e s = .next t := by
  cases e with
  | step b => exact exists_cycle_eq_next (some b) s
  | _ => exact ⟨_, rfl⟩

/-- Settles O15: an instruction by what it can do, a step by its event. -/
theorem everyStepAnswersANextState : Obligations.EveryStepAnswersANextState := by
  refine ⟨fun i s => (exec_faultsOrKeeps i s).imp fun _ => And.left, fun s => ?_⟩
  cases hs : s.env.schedule with
  | nil => exact step_of_empty hs ▸ exists_cycle_eq_next none s
  | cons e es => exact step_of_event hs ▸ exists_handle_eq_next e (s.setSchedule es)

/-! ### A STEP that raises a fault -/

/-- A word that is executed raises a fault and does nothing else, or leaves the fault register as it was; an
UNRECOGNIZED word raises none (R215). -/
theorem executeWord_raises_or_keeps_fault {w : Word} {s t : State} (h : executeWord w s = .next t) :
    (∃ f, t = s.raise f) ∨ t.fault = s.fault := by
  cases hd : decodeWord w with
  | ok i => exact exec_raises_or_keeps_fault (executeWord_instr hd s ▸ h)
  | error e =>
    rw [executeWord_unrecognized hd] at h
    cases h
    exact .inr rfl

/-- The end of a STEP that has raised a fault: the fault and its output are all that is left of it (R213). -/
theorem State.retire_raise (s : State) (r : Option Byte) (f : Fault) :
    ((s.setRnd r).raise f).retire = (s.raise f).setRnd none :=
  State.retire_faulted (State.raise_fault _ f)

/-- A STEP of a running core that ends with a fault has raised it, be it at the fetch or by its instruction, and has
done nothing else but drop its payload (R213). -/
theorem cycle_eq_raise {r : Option Byte} {s t : State} {f : Fault} (hf : s.fault = none) (h : cycle r s = .next t)
    (ht : t.fault = some f) : t = (s.raise f).setRnd none := by
  obtain ⟨⟨g, hg⟩, -⟩ | ⟨-, -, rfl⟩ | ⟨-, w, u, -, hu, rfl⟩ := cycle_cases h
  · cases hf.symm.trans hg
  · rw [State.retire_raise] at ht ⊢
    cases ht
    rfl
  · obtain ⟨g, rfl⟩ | hkeep := executeWord_raises_or_keeps_fault hu
    · rw [State.retire_raise] at ht ⊢
      cases ht
      rfl
    · rw [State.retire_fault, hkeep, State.setRnd_fault, hf] at ht
      cases ht

/-- Settles O14: the STEP takes its event, raises the fault and drops its payload. -/
theorem faultingStepChangesOnlyFault : Obligations.FaultingStepChangesOnlyFault := by
  intro s t f hs hf h ht
  obtain ⟨r, hr⟩ := step_of_nextIsStep hs
  obtain rfl := cycle_eq_raise (s := s.setSchedule s.env.schedule.tail) hf (hr.symm.trans h) ht
  exact ⟨(KeepsFrame.refl s).setSchedule.raise.setRnd.frame, rfl⟩

end Sys2Proof.Machine
end

section
/-! SUPPORT. The table of the faults (60_exceptions.md R211): the fault of each access, from them the fault of each
instruction, and the fetch fault of a STEP. -/

namespace Sys2Proof.Machine

/-! ### The fault of an access -/

/-- The fault an access ends with, if it fails. -/
def faultOfAccess {α : Type} : Except Fault α → Option Fault
  | .ok _ => none
  | .error f => some f

/-- An instruction that goes on with an access ends with the fault of the access, where its rest raises none. -/
theorem State.attempt_fault {α : Type} {s : State} {r : Except Fault α} {k : α → State} {o : Option Fault}
    (hr : faultOfAccess r = o) (hk : ∀ a, r = .ok a → (k a).fault = none) : (s.attempt r k).fault = o := by
  subst hr
  cases r with
  | ok a => exact hk a rfl
  | error f => rfl

/-- The table's condition on a range, in the form of the memory laws: the range is empty or ends at 0xFFF. -/
theorem State.rangeFault_eq (s : State) (n : Nat) :
    s.rangeFault n =
      if n = 0 ∨ s.i.toNat + n ≤ 0x1000 then none else some (.memOutOfRange (max s.i.toNat 0x1000)) := by
  rw [State.rangeFault, ← ite_not]
  exact if_congr (by omega) rfl rfl

theorem faultOfAccess_memWrites (s : State) (bs : List Byte) :
    faultOfAccess (Memory.memWrites (s.dataAddress 0) bs s.mem) = s.rangeFault bs.length := by
  rw [Memory.memWrites_eq, State.rangeFault_eq, apply_ite faultOfAccess]
  exact if_congr (or_congr_left List.length_eq_zero_iff.symm) rfl rfl

theorem faultOfAccess_memReads (s : State) (n : Nat) :
    faultOfAccess (s.mem.memReads (s.dataAddress 0) n) = s.rangeFault n := by
  rw [Memory.memReads_eq, State.rangeFault_eq, apply_ite faultOfAccess]
  rfl

theorem faultOfAccess_push (s : State) (a : Word) :
    faultOfAccess (s.push a) = if s.sp.val = 16 then some (.stackOverflow s.pc) else none := by
  split
  · rw [s.push_full a ‹_›]; rfl
  · rw [s.push_ok a (by omega)]; rfl

theorem faultOfAccess_pop (s : State) :
    faultOfAccess s.pop = if s.sp.val = 0 then some (.stackUnderflow s.pc) else none := by
  split
  · rw [s.pop_empty ‹_›]; rfl
  · rw [s.pop_ok (by omega)]; rfl

theorem faultOfAccess_keyOperand (s : State) (x : Reg) :
    faultOfAccess (s.keyOperand x) =
      if (s.getV x).toNat > 15 then some (.keyIndexOutOfRange (s.getV x)) else none := by
  split
  · rw [s.keyOperand_fault x ‹_›]; rfl
  · rw [s.keyOperand_ok x (by omega)]; rfl

/-! ### The fault of an instruction -/

theorem State.push_fault {s u : State} {a : Word} (h : s.push a = .ok u) : u.fault = s.fault :=
  ((KeepsFrame.refl (ps := [.sp, .stack]) s).push h).frame .fault (by simp)

theorem State.pop_fault {s u : State} {a : Word} (h : s.pop = .ok (a, u)) : u.fault = s.fault :=
  ((KeepsFrame.refl (ps := [.sp]) s).pop h).frame .fault (by simp)

theorem State.setVs_fault (k : Nat) (bs : List Byte) (s : State) : (State.setVs k bs s).fault = s.fault := by
  rw [State.setVs_frame]

/-- Rows 2 to 5 of the table: an instruction raises the fault of its access, and one without an access raises none. -/
theorem exec_fault {i : Instr} {s t : State} (hf : s.fault = none) (h : exec i s = .next t) :
    t.fault = faultOf i s := by
  cases i with
  | ret => cases h; exact State.attempt_fault (faultOfAccess_pop s) fun _ hp => (State.pop_fault hp).trans hf
  | call => cases h; exact State.attempt_fault (faultOfAccess_push s _) fun _ hp => (State.push_fault hp).trans hf
  | skp x | sknp x => cases h; exact State.attempt_fault (faultOfAccess_keyOperand s x) fun _ _ => hf
  | drw => cases h; exact State.attempt_fault (faultOfAccess_memReads s _) fun _ _ => hf
  | ldVxMem =>
    cases h
    exact State.attempt_fault (faultOfAccess_memReads s _) fun bs _ => (State.setVs_fault 0 bs s).trans hf
  | ldBVx x => cases h; exact State.attempt_fault (faultOfAccess_memWrites s (bcdDigits (s.getV x))) fun _ _ => hf
  | ldMemVx x =>
    cases h
    have hrange := faultOfAccess_memWrites s (s.getVs (x.toNat + 1))
    rw [State.getVs_length] at hrange
    exact State.attempt_fault hrange fun _ _ => hf
  | ldVxK =>
    cases h
    split <;> exact hf
  | _ => cases h; exact hf

/-! ### The fetch fault -/

theorem State.rangeFault_ne_fetchOutOfRange (s : State) (n : Nat) (pc : Word) :
    s.rangeFault n ≠ some (.fetchOutOfRange pc) := by
  rw [State.rangeFault_eq]
  split <;> simp

/-- No instruction raises the fault of row 1. -/
theorem faultOf_ne_fetchOutOfRange (i : Instr) (s : State) (pc : Word) : faultOf i s ≠ some (.fetchOutOfRange pc) := by
  cases i with
  | ldBVx | ldMemVx | ldVxMem | drw => exact s.rangeFault_ne_fetchOutOfRange _ pc
  | call | ret | skp | sknp =>
    rw [faultOf]
    split <;> simp
  | _ => exact Option.some_ne_none _ |>.symm

theorem executeWord_fault_ne_fetchOutOfRange {w pc : Word} {s t : State} (hf : s.fault = none)
    (h : executeWord w s = .next t) : t.fault ≠ some (.fetchOutOfRange pc) := by
  cases hd : decodeWord w with
  | ok i =>
    rw [exec_fault hf (executeWord_instr hd s ▸ h)]
    exact faultOf_ne_fetchOutOfRange i s pc
  | error e =>
    rw [executeWord_unrecognized hd] at h
    cases h
    exact fun hfetch => Option.some_ne_none _ (hfetch.symm.trans hf)

/-- Row 1 of the table: the fetch fault of a STEP on a running core. -/
theorem cycle_fault_eq_fetchOutOfRange_iff {r : Option Byte} {s t : State} (hf : s.fault = none)
    (h : cycle r s = .next t) : t.fault = some (.fetchOutOfRange s.pc) ↔ s.pc.toNat + 1 > 0xFFF := by
  obtain ⟨⟨g, hg⟩, -⟩ | ⟨-, hp, rfl⟩ | ⟨-, w, u, hw, hu, rfl⟩ := cycle_cases h
  · cases hf.symm.trans hg
  · rw [State.retire_fault]
    exact iff_of_true rfl (by omega)
  · have hp := Memory.pc_le_of_fetch16 hw
    rw [State.retire_fault]
    exact iff_of_false (executeWord_fault_ne_fetchOutOfRange (s := s.setRnd r) hf hu) (by omega)

/-- Settles O28: the faults of the instructions, the fetch fault, and the codes and values. -/
theorem faultsAreRaisedExactlyAsListed : Obligations.FaultsAreRaisedExactlyAsListed := by
  refine ⟨fun i s t => exec_fault, fun s t hs hf h => ?fetch,
    fun pc a vx => ⟨rfl, rfl, rfl, rfl, rfl, rfl, rfl, rfl, rfl, rfl⟩⟩
  case fetch =>
    obtain ⟨r, hr⟩ := step_of_nextIsStep hs
    exact cycle_fault_eq_fetchOutOfRange_iff (s := s.setSchedule s.env.schedule.tail) hf (hr.symm.trans h)

end Sys2Proof.Machine
end

section
/-! SUPPORT. TICK and the key events (60_exceptions.md R225, R226, R228): one TICK, any number of them, and the events
that set one key. -/

namespace Sys2Proof.Machine

/-! ### TICK -/

theorem tickTimer_toNat (t : Byte) : (tickTimer t).toNat = t.toNat - 1 := by
  unfold tickTimer
  split
  · bv_omega
  · omega

/-- The condition of R225 for BEEP, "ST > 0 and ST is 0 afterwards", as a number. -/
theorem tickTimer_reaches_zero_iff (t : Byte) : t.toNat > 0 ∧ tickTimer t = 0 ↔ t.toNat = 1 := by
  rw [← BitVec.toNat_inj, tickTimer_toNat, show (0 : Byte).toNat = 0 from rfl]
  omega

/-- What TICK does, with the BEEP at ST = 1 (R225). -/
theorem State.tickEvent_eq (s : State) :
    s.tickEvent =
      if s.st.toNat = 1 then ((s.setDt (tickTimer s.dt)).setSt (tickTimer s.st)).emit .beep
      else (s.setDt (tickTimer s.dt)).setSt (tickTimer s.st) :=
  if_congr (tickTimer_reaches_zero_iff s.st) rfl rfl

theorem State.tickEvent_dt (s : State) : s.tickEvent.dt = tickTimer s.dt := by
  rw [State.tickEvent_eq]
  split <;> rfl

theorem State.tickEvent_st (s : State) : s.tickEvent.st = tickTimer s.st := by
  rw [State.tickEvent_eq]
  split <;> rfl

theorem State.tickEvent_env (s : State) :
    s.tickEvent.env =
      { s.env with history := if s.st.toNat = 1 then .beep :: s.env.history else s.env.history } := by
  rw [State.tickEvent_eq]
  split <;> rfl

theorem KeepsFrame.tickEvent {ps : List Piece} {s t : State} (h : KeepsFrame ps s t) (hd : .dt ∈ ps := by simp)
    (hs : .st ∈ ps := by simp) (he : .env ∈ ps := by simp) : KeepsFrame ps s t.tickEvent := by
  rw [State.tickEvent_eq]
  split
  · exact ((h.setDt hd).setSt hs).emit he
  · exact (h.setDt hd).setSt hs

/-- Settles O21: TICK on a halted core, and the pieces of the state after it on a running one. -/
theorem tickCountsTimersDownAndBeepsAtZero : Obligations.TickCountsTimersDownAndBeepsAtZero := by
  intro s es hs
  rw [step_of_event hs, handle]
  refine ⟨fun hf => ?halted, fun hf => ?running⟩
  case halted =>
    obtain ⟨f, hf⟩ := Option.ne_none_iff_exists'.1 hf
    rw [State.unlessHalted_halted (s := s.setSchedule es) hf]
  case running =>
    rw [State.unlessHalted_running (s := s.setSchedule es) hf]
    refine ⟨_, rfl, ?_, ?_, State.tickEvent_env _, (KeepsFrame.refl s).setSchedule.tickEvent.frame⟩
    · rw [State.tickEvent_dt, tickTimer_toNat, State.setSchedule_dt]
    · rw [State.tickEvent_st, tickTimer_toNat, State.setSchedule_st]

/-! ### Any number of TICKs -/

/-- With ST = `v`, the BEEP of the first TICK and that of the `k` after it make one between them: the first beeps where
`v` is 1, and then the others meet ST = 0 (R226). -/
theorem history_of_ticks (v k : Nat) (h : List Output) :
    (if 0 < v - 1 ∧ v - 1 ≤ k then .beep :: (if v = 1 then .beep :: h else h) else if v = 1 then .beep :: h else h) =
      if 0 < v ∧ v ≤ k + 1 then .beep :: h else h := by
  by_cases hv : v = 1
  · rw [if_neg (by omega), if_pos hv, if_pos (by omega)]
  · rw [if_neg hv]
    exact if_congr (by omega) rfl rfl

/-- Settles O22: by induction on the number of TICKs. -/
theorem timersReachZeroAfterTheirValueInTicks : Obligations.TimersReachZeroAfterTheirValueInTicks := by
  intro k
  induction k with
  | zero =>
    rintro s es - rfl
    refine ⟨s, rfl, rfl, rfl, ?_, (KeepsFrame.refl s).frame⟩
    rw [if_neg (by omega)]
  | succ k ih =>
    intro s es hf hs
    obtain ⟨u, hu, hudt, hust, huenv, huframe⟩ := (tickCountsTimersDownAndBeepsAtZero s _ hs).2 hf
    have huf : u.fault = s.fault := huframe .fault (by simp)
    obtain ⟨t, ht, htdt, htst, htenv, htframe⟩ := ih u es (huf.trans hf) (congrArg Env.schedule huenv)
    refine ⟨t, ⟨u, hu, ht⟩, by omega, by omega, ?env, fun p hp => (huframe p hp).trans (htframe p hp)⟩
    case env =>
      rw [htenv, huenv, hust]
      exact congrArg (fun h => { s.env with schedule := es, history := h }) (history_of_ticks _ k _)

/-! ### The key events -/

/-- What is so of the state after a key event that sets key `k` to `b` (R228). -/
theorem State.setKey_setsOneKey (s : State) (k : Fin 16) (b : Bool) (es : List Event) :
    ((s.setSchedule es).setKey k b).keyAt k = b ∧
      (∀ j, j ≠ k → ((s.setSchedule es).setKey k b).keyAt j = s.keyAt j) ∧
      ((s.setSchedule es).setKey k b).env = { s.env with schedule := es } ∧
      UnchangedExcept [.key, .env] s ((s.setSchedule es).setKey k b) :=
  ⟨(State.keyAt_setKey ..).trans (if_pos rfl), fun _ hj => (State.keyAt_setKey ..).trans (if_neg hj), rfl,
    (KeepsFrame.refl s).setSchedule.setKey.frame⟩

/-- KEYUP on a running core (R228). -/
theorem step_keyUp {s : State} {k : Fin 16} {es : List Event} (hf : s.fault = none)
    (h : s.env.schedule = .keyUp k :: es) : step s = .next ((s.setSchedule es).setKey k false) := by
  rw [step_of_event h, handle, State.unlessHalted_running (s := s.setSchedule es) hf]

/-- Settles O23: the two events differ in the level they give the key. -/
theorem keyEventsSetOneKey : Obligations.KeyEventsSetOneKey := fun s k es hf =>
  ⟨fun hs => ⟨_, step_keyDown hf hs, s.setKey_setsOneKey k true es⟩,
    fun hs => ⟨_, step_keyUp hf hs, s.setKey_setsOneKey k false es⟩⟩

end Sys2Proof.Machine
end
